-- ==== Sys2Proof/Word.lean ====
section
/-! DEFINITION. The word types of the engine. -/

namespace Sys2Proof

/-- A 32-bit configuration word; for the real-valued quantities, an IEEE 754 binary32 bit pattern
(20_memory.md R25, 00_scope.md R7). -/
abbrev Word := BitVec 32

/-- An operation word: exactly 43 bits (30_encoding.md R32). -/
abbrev OpWord := BitVec 43

/-- A command word, the bytes of one channel message, first byte highest (30_encoding.md R33, 20_memory.md R25). -/
abbrev Command := BitVec 24

/-- A voice slot, 0..31 (00_scope.md R2). -/
abbrev Slot := Fin 32

/-- Every slot in ascending order (41_render.md R57). -/
def slots : List Slot := List.finRange 32

end Sys2Proof
end

