-- ==== Sys2Proof/Config.lean ====
section
/-! DEFINITION. What an implementation of the engine fixes: the parameters of 00_scope.md R6. A parameter with a
value stands as a definition, an OPEN one as a constant with no body (log 4, 5, 6). -/

namespace Sys2Proof

/-- `RETRIGGER_MODE` (00_scope.md R6, 42_envelope.md R64). -/
inductive RetriggerMode where
  | hold
  | restart
  deriving DecidableEq, Repr

/-- The filter types of `CTRL.FILTER_TYPE` (10_state.md R19). -/
inductive FilterType where
  | lowPass
  | bandPass
  | highPass
  deriving DecidableEq, Repr

/-- The five biquad coefficients (43_primitives.md R74). -/
structure BqCoeffs where
  a0 : Word
  a1 : Word
  a2 : Word
  b1 : Word
  b2 : Word
  deriving DecidableEq, Repr, Inhabited

/-- The OPEN parameter functions of 00_scope.md R6, as one argument of the procedures that use them. -/
structure Numerics where
  /-- `LN`. -/
  ln : Word → Word
  /-- `SIN`. -/
  sin : Word → Word
  /-- `EXP2`. -/
  exp2 : Word → Word
  /-- `BQ_COEFFS(type, cutoff, f32(R))` (43_primitives.md R74, R75). -/
  bqCoeffs : FilterType → Word → Word → BqCoeffs
  /-- `SVF_F(cutoff, f32(R))` (43_primitives.md R76, R77). -/
  svfF : Word → Word → Word
  /-- `SVF_Q(resonance)` (43_primitives.md R76, R77). -/
  svfQ : Word → Word

/-- The parameters that are plain data (00_scope.md R6, 92_eei_decisions.md). They are fixed for the life of an
engine; `State` carries them as the model's own constant field (log 1). -/
structure Params where
  /-- `SAMPLE_RATE`, in Hz. -/
  sampleRate : Nat
  /-- `STRICT`: fail-fast when true, hardened when false. -/
  strict : Bool
  /-- `RETRIGGER_MODE`. -/
  retrigger : RetriggerMode
  /-- `IGNORED_CC` (log 11). -/
  ignoredCc : List (BitVec 7)
  deriving DecidableEq, Repr

/-- The legal range of `SAMPLE_RATE` (00_scope.md R6, 92_eei_decisions.md D7). -/
abbrev Params.rateInRange (p : Params) : Prop := 4187 ≤ p.sampleRate ∧ p.sampleRate ≤ 16777216

/-- The four binary32 operations, naming the NaN an operation answers (log 4). -/
inductive FloatOp where
  | add
  | sub
  | mul
  | div
  deriving DecidableEq, Repr

namespace Config

/-- `FLOOR`: the binary32 nearest 1/32767 (00_scope.md R6). -/
def envFloor : Word := 0x38000100#32

/-- `KEY_OFF`: no bound key (00_scope.md R6). -/
def keyOff : BitVec 7 := 0#7

/-- `CC_VOLUME` (00_scope.md R6). -/
def ccVolume : BitVec 7 := 7#7

/-- `CC_PAN` (00_scope.md R6). -/
def ccPan : BitVec 7 := 10#7

/-- The default of `IGNORED_CC` (00_scope.md R6). -/
def defaultIgnoredCc : List (BitVec 7) := [1#7, 64#7, 91#7, 92#7, 93#7, 94#7, 95#7]

/-- The OPEN part of `SAMPLE_RATE`: how far it lies above the least legal rate (log 5). DESIGN CHOICE, safe: it has
no body, so nothing can be proved of it but its range. -/
opaque rateAboveLeast : Fin 16773030

/-- `SAMPLE_RATE`: OPEN, an integer in [4187, 16777216] (00_scope.md R6, log 5). -/
def sampleRate : Nat := 4187 + rateAboveLeast.val

/-- The parameters of an engine whose platform overrides none of them (00_scope.md R6). -/
def params : Params :=
  { sampleRate := sampleRate, strict := true, retrigger := .hold, ignoredCc := defaultIgnoredCc }

/-- `LN`: OPEN (00_scope.md R6, log 6). -/
opaque ln : Word → Word

/-- `SIN`: OPEN (00_scope.md R6, log 6). -/
opaque sin : Word → Word

/-- `EXP2`: OPEN (00_scope.md R6, log 6). -/
opaque exp2 : Word → Word

/-- `BQ_COEFFS`: OPEN (00_scope.md R6, 43_primitives.md R75, log 6). -/
opaque bqCoeffs : FilterType → Word → Word → BqCoeffs

/-- `SVF_F`: OPEN (00_scope.md R6, 43_primitives.md R77, log 6). -/
opaque svfF : Word → Word → Word

/-- `SVF_Q`: OPEN (00_scope.md R6, 43_primitives.md R77, log 6). -/
opaque svfQ : Word → Word

/-- The OPEN functions the machine runs with. -/
def numerics : Numerics :=
  { ln := ln, sin := sin, exp2 := exp2, bqCoeffs := bqCoeffs, svfF := svfF, svfQ := svfQ }

/-- The sign and fraction of the NaN a binary32 operation answers, from the operation and its operands: IEEE 754 fixes
neither and the spec states neither (00_scope.md R7, log 4). A free value. -/
opaque freeNaN : FloatOp → Word → Word → BitVec 24

end Config

end Sys2Proof
end

