-- ==== Sys2Proof/Machine/Fields.lean ====
section
/-! DEFINITION. The bit fields of an operation word and of a command word (30_encoding.md R32, R33). -/

namespace Sys2Proof

/-- `TAG = W[42:41]` (R32). -/
def tagField (w : OpWord) : BitVec 2 := w.extractLsb' 41 2

/-- `RW = W[40]` of the CFG format (R32). -/
def rwField (w : OpWord) : BitVec 1 := w.extractLsb' 40 1

/-- `ADDR = W[39:32]` of the CFG format (R32, R38). -/
def addrField (w : OpWord) : BitVec 8 := w.extractLsb' 32 8

/-- `DATA = W[31:0]` of the CFG format (R32, R38). -/
def dataField (w : OpWord) : Word := w.extractLsb' 0 32

/-- `C = W[23:0]` of the CMD format (R32). -/
def commandField (w : OpWord) : Command := w.extractLsb' 0 24

/-- `OP = C[23:20]` (R33). -/
def opField (c : Command) : BitVec 4 := c.extractLsb' 20 4

/-- `CH = C[19:16]` (R33). -/
def chField (c : Command) : BitVec 4 := c.extractLsb' 16 4

/-- `D1 = C[15:8]` (R33). -/
def data1Field (c : Command) : BitVec 8 := c.extractLsb' 8 8

/-- `D2 = C[7:0]` (R33). -/
def data2Field (c : Command) : BitVec 8 := c.extractLsb' 0 8

/-- A must-be-0 bit of R32 is 1: the predicate of the table's ILLEGAL_OPWORD row (R39, R41). -/
def mustBeZeroViolated (w : OpWord) : Bool :=
  (tagField w == 0b00#2 && w.extractLsb' 24 17 != 0#17)
    || (tagField w == 0b01#2 && w.extractLsb' 0 41 != 0#41)
    || (tagField w == 0b10#2 && rwField w == 0#1 && dataField w != 0#32)
    || (tagField w == 0b11#2 && w.extractLsb' 0 41 != 0#41)

end Sys2Proof
end

