-- ==== Sys2Proof/Syntax.lean ====
section
/-! DEFINITION. The operations of the engine: one constructor per row of spec/opcode_table.json. The fields are the
bits of the operation word that the row leaves free (30_encoding.md R32, R33, R39). -/

namespace Sys2Proof

/-- An operation (00_scope.md R9), one constructor per row of the opcode table. -/
inductive Instr where
  /-- ILLEGAL_OPWORD: a must-be-0 bit of the operation word `w` is 1 (R41). -/
  | illegalOpword (w : OpWord)
  /-- ILLEGAL_NO_STATUS: bit 23 of the command is 0; `op` is C[22:20] (R41). -/
  | illegalNoStatus (op : BitVec 3) (ch : BitVec 4) (d1 d2 : BitVec 8)
  /-- ILLEGAL_CHANNEL_PRESSURE: OP = 0xD (R41). -/
  | illegalChannelPressure (ch : BitVec 4) (d1 d2 : BitVec 8)
  /-- ILLEGAL_SYSTEM: OP = 0xF (R41). -/
  | illegalSystem (ch : BitVec 4) (d1 d2 : BitVec 8)
  /-- ILLEGAL_DATA1: bit 7 of the first data byte is 1; `d1` is its other bits (R41). -/
  | illegalData1 (op ch : BitVec 4) (d1 : BitVec 7) (d2 : BitVec 8)
  /-- PROGRAM_CHANGE; `d2` is the second data byte, never checked (R41, R54). -/
  | programChange (ch : BitVec 4) (prog : BitVec 7) (d2 : BitVec 8)
  /-- ILLEGAL_DATA2: bit 7 of the second data byte is 1; `d2` is its other bits (R41). -/
  | illegalData2 (op ch : BitVec 4) (d1 d2 : BitVec 7)
  /-- NOTE_ON_VEL0 (R47). -/
  | noteOnVel0 (ch : BitVec 4) (note : BitVec 7)
  /-- CC_VOLUME: controller 7 (R50). -/
  | ccVolume (ch : BitVec 4) (val : BitVec 7)
  /-- CC_PAN: controller 10 (R51). -/
  | ccPan (ch : BitVec 4) (val : BitVec 7)
  /-- CC_IGNORED_1 (R52). -/
  | ccIgnored1 (ch : BitVec 4) (val : BitVec 7)
  /-- CC_IGNORED_64 (R52). -/
  | ccIgnored64 (ch : BitVec 4) (val : BitVec 7)
  /-- CC_IGNORED_91 (R52). -/
  | ccIgnored91 (ch : BitVec 4) (val : BitVec 7)
  /-- CC_IGNORED_92 (R52). -/
  | ccIgnored92 (ch : BitVec 4) (val : BitVec 7)
  /-- CC_IGNORED_93 (R52). -/
  | ccIgnored93 (ch : BitVec 4) (val : BitVec 7)
  /-- CC_IGNORED_94 (R52). -/
  | ccIgnored94 (ch : BitVec 4) (val : BitVec 7)
  /-- CC_IGNORED_95 (R52). -/
  | ccIgnored95 (ch : BitVec 4) (val : BitVec 7)
  /-- NOTE_OFF; `vel` is the release velocity (R48). -/
  | noteOff (ch : BitVec 4) (note vel : BitVec 7)
  /-- NOTE_ON (R46). -/
  | noteOn (ch : BitVec 4) (note vel : BitVec 7)
  /-- POLY_PRESSURE (R49). -/
  | polyPressure (ch : BitVec 4) (note pressure : BitVec 7)
  /-- CC_UNHANDLED (R53). -/
  | ccUnhandled (ch : BitVec 4) (cc val : BitVec 7)
  /-- PITCH_BEND (R37, R55). -/
  | pitchBend (ch : BitVec 4) (lsb msb : BitVec 7)
  /-- PULL (R57). -/
  | pull
  /-- CFG_WR (R78). -/
  | cfgWr (addr : BitVec 8) (data : Word)
  /-- CFG_RD (R79). -/
  | cfgRd (addr : BitVec 8)
  /-- RESET (R97). -/
  | reset
  deriving DecidableEq, Repr

end Sys2Proof
end

