-- ==== Sys2Proof/WellFormed.lean ====
section
/-! DEFINITION. The operations that some operation word stands for: what the decode order of 30_encoding.md R39
leaves to each row. -/

namespace Sys2Proof

/-- The OP values of a CMD row that is decided by its data bytes: not 0xD, not 0xF, and bit 3 set
(30_encoding.md R34, R41). -/
def opWithData (op : BitVec 4) : Bool := op.msb && op != 0xD#4 && op != 0xF#4

/-- A controller number with a row of its own in the opcode table (30_encoding.md R40). -/
def controllerHasRow (cc : BitVec 7) : Bool :=
  cc == Config.ccVolume || cc == Config.ccPan || Config.defaultIgnoredCc.contains cc

/-- The instruction is the reading of an operation word (30_encoding.md R39, R41). -/
def Instr.wellFormed : Instr → Bool
  | .illegalOpword w => mustBeZeroViolated w
  | .illegalNoStatus _ _ _ _ => true
  | .illegalChannelPressure _ _ _ => true
  | .illegalSystem _ _ _ => true
  | .illegalData1 op _ _ _ => opWithData op
  | .programChange _ _ _ => true
  | .illegalData2 op _ _ _ => opWithData op && op != 0xC#4
  | .noteOnVel0 _ _ => true
  | .ccVolume _ _ => true
  | .ccPan _ _ => true
  | .ccIgnored1 _ _ => true
  | .ccIgnored64 _ _ => true
  | .ccIgnored91 _ _ => true
  | .ccIgnored92 _ _ => true
  | .ccIgnored93 _ _ => true
  | .ccIgnored94 _ _ => true
  | .ccIgnored95 _ _ => true
  | .noteOff _ _ _ => true
  | .noteOn _ _ vel => vel != 0
  | .polyPressure _ _ _ => true
  | .ccUnhandled _ cc _ => !controllerHasRow cc
  | .pitchBend _ _ _ => true
  | .pull => true
  | .cfgWr _ _ => true
  | .cfgRd _ => true
  | .reset => true

end Sys2Proof
end

