-- ==== Sys2Proof/Decode.lean ====
section
/-! DEFINITION. The decoder (30_encoding.md R32 to R42), the encoder, and the opcode table's rows as masks. -/

namespace Sys2Proof

/-- The row of a controller change, by its controller number (30_encoding.md R39 step 7, R40). -/
def decodeController (ch : BitVec 4) (cc val : BitVec 7) : Instr :=
  if cc = 7#7 then .ccVolume ch val
  else if cc = 10#7 then .ccPan ch val
  else if cc = 1#7 then .ccIgnored1 ch val
  else if cc = 64#7 then .ccIgnored64 ch val
  else if cc = 91#7 then .ccIgnored91 ch val
  else if cc = 92#7 then .ccIgnored92 ch val
  else if cc = 93#7 then .ccIgnored93 ch val
  else if cc = 94#7 then .ccIgnored94 ch val
  else if cc = 95#7 then .ccIgnored95 ch val
  else .ccUnhandled ch cc val

/-- A message whose two data bytes are legal, by its OP (30_encoding.md R34, R39 steps 6 to 8). -/
def decodeMessage (op ch : BitVec 4) (d1 d2 : BitVec 7) : Instr :=
  if op = 0x8#4 then .noteOff ch d1 d2
  else if op = 0x9#4 then if d2 = 0#7 then .noteOnVel0 ch d1 else .noteOn ch d1 d2
  else if op = 0xA#4 then .polyPressure ch d1 d2
  else if op = 0xB#4 then decodeController ch d1 d2
  else .pitchBend ch d1 d2

/-- The CMD rows, in the order of 30_encoding.md R39 steps 2 to 8. -/
def decodeCommand (c : Command) : Instr :=
  let op := opField c
  let ch := chField c
  let d1 := data1Field c
  let d2 := data2Field c
  if op.msb = false then .illegalNoStatus (op.extractLsb' 0 3) ch d1 d2
  else if op = 0xD#4 then .illegalChannelPressure ch d1 d2
  else if op = 0xF#4 then .illegalSystem ch d1 d2
  else if d1.msb = true then .illegalData1 op ch (d1.extractLsb' 0 7) d2
  else if op = 0xC#4 then .programChange ch (d1.extractLsb' 0 7) d2
  else if d2.msb = true then .illegalData2 op ch (d1.extractLsb' 0 7) (d2.extractLsb' 0 7)
  else decodeMessage op ch (d1.extractLsb' 0 7) (d2.extractLsb' 0 7)

/-- The operation an operation word stands for. Total: every word matches a row (30_encoding.md R39). -/
def decode (w : OpWord) : Instr :=
  if mustBeZeroViolated w = true then .illegalOpword w
  else if tagField w = 0b00#2 then decodeCommand (commandField w)
  else if tagField w = 0b01#2 then .pull
  else if tagField w = 0b10#2 then
    if rwField w = 1#1 then .cfgWr (addrField w) (dataField w) else .cfgRd (addrField w)
  else .reset

/-- Why a number is no operation word. -/
inductive DecodeReject where
  /-- It needs more than 43 bits; every operation word is exactly 43 bits (30_encoding.md R32, log 9). -/
  | widerThanAnOperationWord
  deriving DecidableEq, Repr

/-- The decoder on any number: an operation word's reading, or a rejection by name (log 9). -/
def decodeNumber (w : Nat) : Except DecodeReject Instr :=
  if w < 2 ^ 43 then .ok (decode (BitVec.ofNat 43 w)) else .error .widerThanAnOperationWord

/-- The instruction the decoder reads from the table's bit numbering: an operation word is one word, so the table's
bit i is bit i of `W` (30_encoding.md R32); bits 43 and above do not exist (log 9). -/
def decodeTableWord (_nbits w : Nat) : Option Instr :=
  match decodeNumber w with
  | .ok i => some i
  | .error _ => none

/-- A CMD operation word (30_encoding.md R32). -/
def encodeCommand (c : Command) : OpWord := 0b00#2 ++ 0#17 ++ c

/-- A command with two data bytes, bit 7 of each 0 (30_encoding.md R33, R43). -/
def encodeMessage (op ch : BitVec 4) (d1 d2 : BitVec 7) : OpWord :=
  encodeCommand (op ++ ch ++ 0#1 ++ d1 ++ 0#1 ++ d2)

/-- The word of an operation, from the formats of 30_encoding.md R32, R33 and the table's match values. -/
def encode : Instr → OpWord
  | .illegalOpword w => w
  | .illegalNoStatus op ch d1 d2 => encodeCommand (0#1 ++ op ++ ch ++ d1 ++ d2)
  | .illegalChannelPressure ch d1 d2 => encodeCommand (0xD#4 ++ ch ++ d1 ++ d2)
  | .illegalSystem ch d1 d2 => encodeCommand (0xF#4 ++ ch ++ d1 ++ d2)
  | .illegalData1 op ch d1 d2 => encodeCommand (op ++ ch ++ 1#1 ++ d1 ++ d2)
  | .programChange ch prog d2 => encodeCommand (0xC#4 ++ ch ++ 0#1 ++ prog ++ d2)
  | .illegalData2 op ch d1 d2 => encodeCommand (op ++ ch ++ 0#1 ++ d1 ++ 1#1 ++ d2)
  | .noteOnVel0 ch note => encodeMessage 0x9#4 ch note 0#7
  | .ccVolume ch val => encodeMessage 0xB#4 ch 7#7 val
  | .ccPan ch val => encodeMessage 0xB#4 ch 10#7 val
  | .ccIgnored1 ch val => encodeMessage 0xB#4 ch 1#7 val
  | .ccIgnored64 ch val => encodeMessage 0xB#4 ch 64#7 val
  | .ccIgnored91 ch val => encodeMessage 0xB#4 ch 91#7 val
  | .ccIgnored92 ch val => encodeMessage 0xB#4 ch 92#7 val
  | .ccIgnored93 ch val => encodeMessage 0xB#4 ch 93#7 val
  | .ccIgnored94 ch val => encodeMessage 0xB#4 ch 94#7 val
  | .ccIgnored95 ch val => encodeMessage 0xB#4 ch 95#7 val
  | .noteOff ch note vel => encodeMessage 0x8#4 ch note vel
  | .noteOn ch note vel => encodeMessage 0x9#4 ch note vel
  | .polyPressure ch note pressure => encodeMessage 0xA#4 ch note pressure
  | .ccUnhandled ch cc val => encodeMessage 0xB#4 ch cc val
  | .pitchBend ch lsb msb => encodeMessage 0xE#4 ch lsb msb
  | .pull => 0b01#2 ++ 0#41
  | .cfgWr addr data => 0b10#2 ++ 1#1 ++ addr ++ data
  | .cfgRd addr => 0b10#2 ++ 0#1 ++ addr ++ 0#32
  | .reset => 0b11#2 ++ 0#41

/-- The rows of opcode_table.json. -/
inductive Row where
  | illegalOpword
  | illegalNoStatus
  | illegalChannelPressure
  | illegalSystem
  | illegalData1
  | programChange
  | illegalData2
  | noteOnVel0
  | ccVolume
  | ccPan
  | ccIgnored (cc : BitVec 7)
  | noteOff
  | noteOn
  | polyPressure
  | ccUnhandled
  | pitchBend
  | pull
  | cfgWr
  | cfgRd
  | reset
  deriving DecidableEq, Repr

/-- A row's mask and match. -/
structure RowPattern where
  row : Row
  mask : OpWord
  value : OpWord
  deriving DecidableEq, Repr

/-- The rows of opcode_table.json that have a mask, in ascending priority (30_encoding.md R39). -/
def opcodeRows : List RowPattern :=
  [ ⟨.illegalNoStatus, 0x7FFFF800000#43, 0x00000000000#43⟩,
    ⟨.illegalChannelPressure, 0x7FFFFF00000#43, 0x00000D00000#43⟩,
    ⟨.illegalSystem, 0x7FFFFF00000#43, 0x00000F00000#43⟩,
    ⟨.illegalData1, 0x7FFFF808000#43, 0x00000808000#43⟩,
    ⟨.programChange, 0x7FFFFF08000#43, 0x00000C00000#43⟩,
    ⟨.illegalData2, 0x7FFFF800080#43, 0x00000800080#43⟩,
    ⟨.noteOnVel0, 0x7FFFFF080FF#43, 0x00000900000#43⟩,
    ⟨.ccVolume, 0x7FFFFF0FF80#43, 0x00000B00700#43⟩,
    ⟨.ccPan, 0x7FFFFF0FF80#43, 0x00000B00A00#43⟩,
    ⟨.ccIgnored 1, 0x7FFFFF0FF80#43, 0x00000B00100#43⟩,
    ⟨.ccIgnored 64, 0x7FFFFF0FF80#43, 0x00000B04000#43⟩,
    ⟨.ccIgnored 91, 0x7FFFFF0FF80#43, 0x00000B05B00#43⟩,
    ⟨.ccIgnored 92, 0x7FFFFF0FF80#43, 0x00000B05C00#43⟩,
    ⟨.ccIgnored 93, 0x7FFFFF0FF80#43, 0x00000B05D00#43⟩,
    ⟨.ccIgnored 94, 0x7FFFFF0FF80#43, 0x00000B05E00#43⟩,
    ⟨.ccIgnored 95, 0x7FFFFF0FF80#43, 0x00000B05F00#43⟩,
    ⟨.noteOff, 0x7FFFFF08080#43, 0x00000800000#43⟩,
    ⟨.noteOn, 0x7FFFFF08080#43, 0x00000900000#43⟩,
    ⟨.polyPressure, 0x7FFFFF08080#43, 0x00000A00000#43⟩,
    ⟨.ccUnhandled, 0x7FFFFF08080#43, 0x00000B00000#43⟩,
    ⟨.pitchBend, 0x7FFFFF08080#43, 0x00000E00000#43⟩,
    ⟨.pull, 0x7FFFFFFFFFF#43, 0x20000000000#43⟩,
    ⟨.cfgWr, 0x70000000000#43, 0x50000000000#43⟩,
    ⟨.cfgRd, 0x700FFFFFFFF#43, 0x40000000000#43⟩,
    ⟨.reset, 0x7FFFFFFFFFF#43, 0x60000000000#43⟩ ]

/-- The row the decode order of 30_encoding.md R39 selects: the predicate row first, then the first mask that
matches. -/
def firstRow (w : OpWord) : Option Row :=
  if mustBeZeroViolated w then some .illegalOpword
  else (opcodeRows.find? fun r => w &&& r.mask == r.value).map (·.row)

/-- The table's row of an instruction. -/
def Instr.row : Instr → Row
  | .illegalOpword _ => .illegalOpword
  | .illegalNoStatus _ _ _ _ => .illegalNoStatus
  | .illegalChannelPressure _ _ _ => .illegalChannelPressure
  | .illegalSystem _ _ _ => .illegalSystem
  | .illegalData1 _ _ _ _ => .illegalData1
  | .programChange _ _ _ => .programChange
  | .illegalData2 _ _ _ _ => .illegalData2
  | .noteOnVel0 _ _ => .noteOnVel0
  | .ccVolume _ _ => .ccVolume
  | .ccPan _ _ => .ccPan
  | .ccIgnored1 _ _ => .ccIgnored 1
  | .ccIgnored64 _ _ => .ccIgnored 64
  | .ccIgnored91 _ _ => .ccIgnored 91
  | .ccIgnored92 _ _ => .ccIgnored 92
  | .ccIgnored93 _ _ => .ccIgnored 93
  | .ccIgnored94 _ _ => .ccIgnored 94
  | .ccIgnored95 _ _ => .ccIgnored 95
  | .noteOff _ _ _ => .noteOff
  | .noteOn _ _ _ => .noteOn
  | .polyPressure _ _ _ => .polyPressure
  | .ccUnhandled _ _ _ => .ccUnhandled
  | .pitchBend _ _ _ => .pitchBend
  | .pull => .pull
  | .cfgWr _ _ => .cfgWr
  | .cfgRd _ => .cfgRd
  | .reset => .reset

end Sys2Proof
end

