-- ==== Sys2Proof/Machine/State.lean ====
section
/-! DEFINITION. The architectural state (10_state.md), the outcomes of a step, and the state after reset. -/

namespace Sys2Proof.Machine

/-- `MODE` (10_state.md R12). -/
inductive Mode where
  | run
  | faulted
  deriving DecidableEq, Repr

/-- The causes of a fault (60_exceptions.md R83). -/
inductive Cause where
  | proto
  | cfg
  | numeric
  | cfgUnset
  | envParam
  deriving DecidableEq, Repr

/-- The envelope states (42_envelope.md R62). -/
inductive EnvState where
  | off
  | attack
  | decay
  | sustain
  | release
  deriving DecidableEq, Repr

/-- `CTRL.WAVEFORM` (10_state.md R19). -/
inductive Waveform where
  | sine
  | square
  | triangle
  | sawtooth
  deriving DecidableEq, Repr

/-- `CTRL.FILTER_TOPO` (10_state.md R19). -/
inductive FilterTopo where
  | biquad
  | stateVariable
  deriving DecidableEq, Repr

/-- The value of `CTRL`, by its three fields; its other bits always read 0 (10_state.md R19, log 10). -/
structure Ctrl where
  waveform : Waveform
  topo : FilterTopo
  filterType : FilterType
  deriving DecidableEq, Repr

/-- The configuration registers; `none` is the spec's `UNSET` (10_state.md R19). -/
structure ConfigRegs where
  ctrl : Option Ctrl
  peak : Option Word
  sustain : Option Word
  attackT : Option Word
  decayT : Option Word
  releaseT : Option Word
  cutoff : Option Word
  resonance : Option Word
  volUp : Option Word
  volDown : Option Word
  panUp : Option Word
  panDown : Option Word
  deriving DecidableEq, Repr

/-- The configuration when every register holds a value: what the channel commands and PULL read
(40_channel_commands.md R45). -/
structure Settings where
  ctrl : Ctrl
  peak : Word
  sustain : Word
  attackT : Word
  decayT : Word
  releaseT : Word
  cutoff : Word
  resonance : Word
  volUp : Word
  volDown : Word
  panUp : Word
  panDown : Word
  deriving DecidableEq, Repr

/-- An exponential ramp (10_state.md R16). -/
structure Ramp where
  value : Word
  target : Word
  deriving DecidableEq, Repr

/-- An entry of the voice register file (10_state.md R14). -/
structure Voice where
  key : BitVec 7
  vel : BitVec 7
  elapsed : BitVec 32
  phase : Word
  inc : Word
  env : EnvState
  level : Word
  mult : Word
  x1 : Word
  x2 : Word
  y1 : Word
  y2 : Word
  low : Word
  band : Word
  deriving DecidableEq, Repr

/-- What the host observes of an operation (70_reset_and_hazards.md R103). -/
inductive Output where
  /-- PULL's binary32 pair and s16 pair (41_render.md R60). -/
  | frame (left right : Word) (left16 right16 : BitVec 16)
  /-- CFG_RD's result (44_config_access.md R79). -/
  | word (value : Word)
  deriving DecidableEq, Repr

/-- The state. The first eleven fields are the spec's (10_state.md R10); the last three are the model's own
(log 1, 2, 3). -/
structure State where
  /-- R12. -/
  mode : Mode
  /-- R12: the cause code, 0 in RUN. -/
  faultCause : BitVec 4
  /-- R13. -/
  errProto : Bool
  /-- R13. -/
  errCfg : Bool
  /-- R13. -/
  errNumeric : Bool
  /-- R19. -/
  cfg : ConfigRegs
  /-- R16. -/
  vol : Ramp
  /-- R16. -/
  pan : Ramp
  /-- R17. -/
  program : BitVec 7
  /-- R17: an s14. -/
  bend : BitVec 14
  /-- R14. -/
  voices : Vector Voice 32
  /-- The model's own: the parameters of this engine, which no operation writes (00_scope.md R6, log 1). -/
  params : Params
  /-- The model's own: the operation words the host will present, next first (00_scope.md R9, log 2). -/
  arriving : List OpWord
  /-- The model's own: what the host has observed, oldest first (70_reset_and_hazards.md R103, log 3). -/
  observed : List Output
  deriving DecidableEq, Repr

/-- The ways the engine has no step (60_exceptions.md R82 "no step"): the operation is held (log 7). Each is safe:
the spec gives the engine no effect there. -/
inductive Fault where
  /-- An operation other than CFG_RD and RESET in FAULTED: raised by every such operation (60_exceptions.md R90). Safe. -/
  | heldInFaulted
  /-- A CFG_RD of a reserved address in FAULTED: raised by CFG_RD (44_config_access.md R79, log 8). Safe. -/
  | reservedReadInFaulted
  /-- A CFG_RD of an UNSET register in FAULTED: raised by CFG_RD (44_config_access.md R79). Safe. -/
  | unsetReadInFaulted
  deriving DecidableEq, Repr

/-- Why the model has no meaning for an operation. -/
inductive Refusal where
  /-- The instruction has no meaning in the model yet. Raised by no arm of `exec`. Safe. -/
  | notModelled (mnemonic : String)
  deriving DecidableEq, Repr

/-- The outcome of an operation. -/
abbrev Result := Host.Outcome State Fault Refusal

/-- Every configuration register `UNSET` (10_state.md R22). -/
def ConfigRegs.unset : ConfigRegs :=
  { ctrl := none, peak := none, sustain := none, attackT := none, decayT := none, releaseT := none, cutoff := none,
    resonance := none, volUp := none, volDown := none, panUp := none, panDown := none }

/-- A voice after reset (10_state.md R22, 70_reset_and_hazards.md R97). -/
def Voice.silent : Voice :=
  { key := Config.keyOff, vel := 0, elapsed := 0, phase := 0, inc := 0, env := .off, level := Config.envFloor,
    mult := 0x3F800000#32, x1 := 0, x2 := 0, y1 := 0, y2 := 0, low := 0, band := 0 }

/-- An engine of the given parameters right after construction (10_state.md R22, 70_reset_and_hazards.md R97, R98). -/
def State.construction (p : Params) : State :=
  { mode := .run, faultCause := 0, errProto := false, errCfg := false, errNumeric := false, cfg := .unset,
    vol := ⟨0x3F800000#32, 0x3F800000#32⟩, pan := ⟨0x3F000000#32, 0x3F000000#32⟩, program := 0, bend := 0,
    voices := Vector.replicate 32 Voice.silent, params := p, arriving := [], observed := [] }

/-- The machine right after reset, on a platform that overrides no parameter (00_scope.md R6). -/
def State.reset : State := State.construction Config.params

end Sys2Proof.Machine
end

