-- ==== Sys2Proof/Machine/Flags.lean ====
section
/-! DEFINITION. The error flags, the fault cause codes and the status words (10_state.md R12, R13, R20;
60_exceptions.md R83; 44_config_access.md R81). -/

namespace Sys2Proof.Machine

/-- The cause code held in `FAULT_CAUSE` (60_exceptions.md R83). -/
def causeCode : Cause → BitVec 4
  | .proto => 1
  | .cfg => 2
  | .numeric => 3
  | .cfgUnset => 4
  | .envParam => 5

/-- Set the flag a cause records: causes 1 to 3 have one, 4 and 5 have none (60_exceptions.md R83). -/
def State.flagged (c : Cause) (s : State) : State :=
  match c with
  | .proto => { s with errProto := true }
  | .cfg => { s with errCfg := true }
  | .numeric => { s with errNumeric := true }
  | .cfgUnset => s
  | .envParam => s

/-- The code of an envelope state (10_state.md R14). -/
def envCode : EnvState → BitVec 3
  | .off => 0
  | .attack => 1
  | .decay => 2
  | .sustain => 3
  | .release => 4

/-- The `STATUS` word (10_state.md R20). -/
def statusWord (s : State) : Word :=
  0#24 ++ s.faultCause ++ BitVec.ofBool s.errNumeric ++ BitVec.ofBool s.errCfg ++ BitVec.ofBool s.errProto
    ++ BitVec.ofBool (s.mode == .faulted)

/-- The `VOICE_STAT[i]` word: VEL in [22:16], ENV in [10:8], KEY in [6:0] (10_state.md R20). -/
def voiceStatWord (v : Voice) : Word := 0#9 ++ v.vel ++ 0#5 ++ envCode v.env ++ 0#1 ++ v.key

/-- The bits of `DATA` that a write of `STATUS` must leave 0: all but [3:1] (44_config_access.md R80, R81). -/
def statusWriteRefused (data : Word) : Bool := data.extractLsb' 4 28 != 0 || data.getLsbD 0

/-- `W1C(DATA)` of a legal `DATA` (44_config_access.md R81). -/
def State.clearFlags (data : Word) (s : State) : State :=
  { s with
    errProto := s.errProto && !data.getLsbD 1
    errCfg := s.errCfg && !data.getLsbD 2
    errNumeric := s.errNumeric && !data.getLsbD 3 }

end Sys2Proof.Machine
end

