-- ==== Sys2Proof/Machine/Float.lean ====
section
/-! DEFINITION. IEEE 754 binary32 arithmetic, rounded to nearest with ties to even, no fusion, subnormals kept
(00_scope.md R7, R8). A finite value is held exactly as a whole number of units of 2^-149, the least subnormal; every
operation computes its exact result in that unit and rounds once. -/

namespace Sys2Proof.Machine

/-- The value of a binary32 bit pattern. -/
inductive FloatValue where
  | nan
  | inf (neg : Bool)
  /-- A finite value: its sign (also of a zero) and its magnitude in units of 2^-149. -/
  | fin (neg : Bool) (mag : Nat)
  deriving DecidableEq, Repr

/-- The magnitude, in units of 2^-149, of a finite pattern without its sign: exponent field times 2^23 plus fraction. -/
def magnitude (bits : Nat) : Nat :=
  if bits / 2 ^ 23 = 0 then bits else (2 ^ 23 + bits % 2 ^ 23) * 2 ^ (bits / 2 ^ 23 - 1)

/-- Sign in bit 31, exponent in [30:23], fraction in [22:0] (20_memory.md R25). -/
def floatValue (x : Word) : FloatValue :=
  let bits := x.toNat % 2 ^ 31
  if bits < 0x7F800000 then .fin x.msb (magnitude bits)
  else if bits = 0x7F800000 then .inf x.msb
  else .nan

/-- A pattern from its sign and its other 31 bits. -/
def floatWord (neg : Bool) (bits : Nat) : Word :=
  BitVec.ofNat 32 ((if neg then 2 ^ 31 else 0) + bits)

/-- The whole number nearest to `num / unit`, the even one of two equally near. -/
def roundHalfEven (num unit : Nat) : Nat :=
  let m := num / unit
  let r := num % unit
  if unit < 2 * r ∨ (2 * r = unit ∧ m % 2 = 1) then m + 1 else m

/-- The exponent step at `num / den` units: the power of two whose multiples are the binary32 values there. -/
def exponentStep (num den : Nat) : Nat := (num / den).log2 - 23

/-- The binary32 magnitude (exponent and fraction bits) nearest to `num / den` units of 2^-149, ties to even; past the
largest finite value, infinity (00_scope.md R7). -/
def roundMagnitude (num den : Nat) : Nat :=
  min (exponentStep num den * 2 ^ 23 + roundHalfEven num (den * 2 ^ exponentStep num den)) 0x7F800000

/-- A signed quotient of units of 2^-149, rounded. -/
def roundWord (neg : Bool) (num den : Nat) : Word := floatWord neg (roundMagnitude num den)

/-- A NaN with the given sign and fraction bits; a fraction of 0 would be an infinity and becomes the quiet bit alone. -/
def nanWord (b : BitVec 24) : Word :=
  let frac := b.toNat % 2 ^ 23
  floatWord b.msb (0x7F800000 + if frac = 0 then 2 ^ 22 else frac)

/-- The NaN an operation answers: a free value (log 4). -/
def resultNaN (op : FloatOp) (x y : Word) : Word := nanWord (Config.freeNaN op x y)

/-- An infinity. -/
def infWord (neg : Bool) : Word := floatWord neg 0x7F800000

/-- A finite value as a signed number of units. -/
def signedUnits (neg : Bool) (mag : Nat) : Int := if neg then -(mag : Int) else mag

/-- The rounded sum of two finite values. An exact zero sum is `+0.0` unless both operands are negative zeros. -/
def addFinite (s : Bool) (m : Nat) (t : Bool) (n : Nat) : Word :=
  let sum := signedUnits s m + signedUnits t n
  if sum = 0 then floatWord (s && t) 0 else roundWord (decide (sum < 0)) sum.natAbs 1

/-- The sum of two values; `none` where the result is a NaN. -/
def addValues : FloatValue → FloatValue → Option Word
  | .nan, _ => none
  | _, .nan => none
  | .inf s, .inf t => if s = t then some (infWord s) else none
  | .inf s, .fin _ _ => some (infWord s)
  | .fin _ _, .inf t => some (infWord t)
  | .fin s m, .fin t n => some (addFinite s m t n)

/-- The negation of a value. -/
def negValue : FloatValue → FloatValue
  | .nan => .nan
  | .inf s => .inf (!s)
  | .fin s m => .fin (!s) m

/-- The product of two values; `none` where the result is a NaN. -/
def mulValues : FloatValue → FloatValue → Option Word
  | .nan, _ => none
  | _, .nan => none
  | .inf s, .inf t => some (infWord (s ^^ t))
  | .inf s, .fin t n => if n = 0 then none else some (infWord (s ^^ t))
  | .fin s m, .inf t => if m = 0 then none else some (infWord (s ^^ t))
  | .fin s m, .fin t n => some (roundWord (s ^^ t) (m * n) (2 ^ 149))

/-- The quotient of two values; `none` where the result is a NaN. -/
def divValues : FloatValue → FloatValue → Option Word
  | .nan, _ => none
  | _, .nan => none
  | .inf _, .inf _ => none
  | .inf s, .fin t _ => some (infWord (s ^^ t))
  | .fin s _, .inf t => some (floatWord (s ^^ t) 0)
  | .fin s m, .fin t n =>
    if n = 0 then if m = 0 then none else some (infWord (s ^^ t))
    else some (roundWord (s ^^ t) (m * 2 ^ 149) n)

/-- `x + y` (00_scope.md R7). -/
def fAdd (x y : Word) : Word := (addValues (floatValue x) (floatValue y)).getD (resultNaN .add x y)

/-- `x - y` (00_scope.md R7). -/
def fSub (x y : Word) : Word := (addValues (floatValue x) (negValue (floatValue y))).getD (resultNaN .sub x y)

/-- `x * y` (00_scope.md R7). -/
def fMul (x y : Word) : Word := (mulValues (floatValue x) (floatValue y)).getD (resultNaN .mul x y)

/-- `x / y` (00_scope.md R7). -/
def fDiv (x y : Word) : Word := (divValues (floatValue x) (floatValue y)).getD (resultNaN .div x y)

/-- A number of units beyond every finite value. -/
def beyondFinite : Nat := 2 ^ 150 * 2 ^ 150

/-- Where a value lies among the values other than NaN, in units of 2^-149; both zeros at 0, an infinity beyond every
finite value. -/
def position : FloatValue → Option Int
  | .nan => none
  | .inf neg => some (signedUnits neg beyondFinite)
  | .fin neg mag => some (signedUnits neg mag)

/-- `x < y`, false when either is NaN (00_scope.md R8). -/
def fLt (x y : Word) : Bool :=
  match position (floatValue x), position (floatValue y) with
  | some a, some b => decide (a < b)
  | _, _ => false

/-- `x <= y`, false when either is NaN (00_scope.md R8). -/
def fLe (x y : Word) : Bool :=
  match position (floatValue x), position (floatValue y) with
  | some a, some b => decide (a ≤ b)
  | _, _ => false

/-- `finite(x)` (00_scope.md R8). -/
def fFinite (x : Word) : Bool :=
  match floatValue x with
  | .fin _ _ => true
  | _ => false

/-- `f32(i)` (00_scope.md R8). -/
def fOfInt (i : Int) : Word := roundWord (decide (i < 0)) (i.natAbs * 2 ^ 149) 1

/-- `trunc(x)` of a finite value (00_scope.md R8). It is asked of no other value; there the model answers 0 (log 18). -/
def fTrunc (x : Word) : Int :=
  match floatValue x with
  | .fin neg mag => signedUnits neg (mag / 2 ^ 149)
  | _ => 0

end Sys2Proof.Machine
end

