-- ==== Sys2Proof/Machine/Operands.lean ====
section
/-! DEFINITION. Operand assembly (30_encoding.md R35 to R38), the register map of the configuration space
(10_state.md R18 to R21) and the legal values of its registers (R19). -/

namespace Sys2Proof.Machine

/-- The PianoKey of a MIDI note, for notes 21..108 (30_encoding.md R35). -/
def pianoKey (note : BitVec 7) : Option (BitVec 7) :=
  if 21 ≤ note.toNat ∧ note.toNat ≤ 108 then some (note - 20#7) else none

/-- The pitch-bend operand: the 14-bit value less its centre 0x2000, an s14 (30_encoding.md R37). -/
def bendOperand (lsb msb : BitVec 7) : BitVec 14 := (msb ++ lsb) - 0x2000#14

/-- The ramp target of a controller value: `f32(val) / 127.0` (40_channel_commands.md R50, R51). -/
def controllerLevel (val : BitVec 7) : Word := fDiv (fOfInt val.toNat) 0x42FE0000#32

/-- `CTRL.WAVEFORM` codes (10_state.md R19). -/
def waveformOf (code : BitVec 2) : Waveform :=
  if code = 0#2 then .sine else if code = 1#2 then .square else if code = 2#2 then .triangle else .sawtooth

/-- `CTRL.WAVEFORM` codes (10_state.md R19). -/
def waveformCode : Waveform → BitVec 2
  | .sine => 0
  | .square => 1
  | .triangle => 2
  | .sawtooth => 3

/-- `CTRL.FILTER_TOPO` codes (10_state.md R19). -/
def topoOf (bit : Bool) : FilterTopo := if bit then .stateVariable else .biquad

/-- `CTRL.FILTER_TOPO` codes (10_state.md R19). -/
def topoCode : FilterTopo → BitVec 1
  | .biquad => 0
  | .stateVariable => 1

/-- `CTRL.FILTER_TYPE` codes; 3 is reserved (10_state.md R19). -/
def filterTypeOf (code : BitVec 2) : Option FilterType :=
  if code = 0#2 then some .lowPass
  else if code = 1#2 then some .bandPass
  else if code = 2#2 then some .highPass
  else none

/-- `CTRL.FILTER_TYPE` codes (10_state.md R19). -/
def filterTypeCode : FilterType → BitVec 2
  | .lowPass => 0
  | .bandPass => 1
  | .highPass => 2

/-- The fields of a legal `CTRL` value: `none` where FILTER_TYPE is 3 or one of [31:5] is 1 (10_state.md R19). -/
def ctrlOf (data : Word) : Option Ctrl :=
  if data.extractLsb' 5 27 = 0#27 then
    (filterTypeOf (data.extractLsb' 3 2)).map fun t =>
      { waveform := waveformOf (data.extractLsb' 0 2), topo := topoOf (data.getLsbD 2), filterType := t }
  else none

/-- `CTRL` as it reads (10_state.md R19). -/
def ctrlWord (c : Ctrl) : Word :=
  0#27 ++ filterTypeCode c.filterType ++ topoCode c.topo ++ waveformCode c.waveform

/-- The configuration registers by name (10_state.md R19). -/
inductive CfgReg where
  | ctrl
  | peak
  | sustain
  | attackT
  | decayT
  | releaseT
  | cutoff
  | resonance
  | volUp
  | volDown
  | panUp
  | panDown
  deriving DecidableEq, Repr

/-- What a configuration-space address names (10_state.md R19 to R21). -/
inductive RegName where
  | cfg (r : CfgReg)
  | status
  | program
  | bend
  | volValue
  | volTarget
  | panValue
  | panTarget
  | voiceStat (i : Slot)
  | voiceElapsed (i : Slot)
  | voiceLevel (i : Slot)
  | voicePhase (i : Slot)
  | reserved
  deriving DecidableEq, Repr

/-- The slot of a per-voice address: its low five bits (10_state.md R20). -/
def slotOf (addr : BitVec 8) : Slot := Fin.ofNat 32 addr.toNat

/-- The address map (10_state.md R19 to R21). -/
def regAt (addr : BitVec 8) : RegName :=
  match addr.toNat with
  | 0x00 => .cfg .ctrl
  | 0x01 => .cfg .peak
  | 0x02 => .cfg .sustain
  | 0x03 => .cfg .attackT
  | 0x04 => .cfg .decayT
  | 0x05 => .cfg .releaseT
  | 0x06 => .cfg .cutoff
  | 0x07 => .cfg .resonance
  | 0x08 => .cfg .volUp
  | 0x09 => .cfg .volDown
  | 0x0A => .cfg .panUp
  | 0x0B => .cfg .panDown
  | 0x10 => .status
  | 0x11 => .program
  | 0x12 => .bend
  | 0x13 => .volValue
  | 0x14 => .volTarget
  | 0x15 => .panValue
  | 0x16 => .panTarget
  | a =>
    if a < 0x40 then .reserved
    else if a < 0x60 then .voiceStat (slotOf addr)
    else if a < 0x80 then .voiceElapsed (slotOf addr)
    else if a < 0xA0 then .voiceLevel (slotOf addr)
    else if a < 0xC0 then .voicePhase (slotOf addr)
    else .reserved

/-- The address of a configuration register (10_state.md R19). -/
def cfgAddress : CfgReg → BitVec 8
  | .ctrl => 0x00
  | .peak => 0x01
  | .sustain => 0x02
  | .attackT => 0x03
  | .decayT => 0x04
  | .releaseT => 0x05
  | .cutoff => 0x06
  | .resonance => 0x07
  | .volUp => 0x08
  | .volDown => 0x09
  | .panUp => 0x0A
  | .panDown => 0x0B

/-- `f32(R)` (00_scope.md R6). -/
def rateWord (p : Params) : Word := fOfInt p.sampleRate

/-- Finite and above a bound: the legal values of `PEAK`, `SUSTAIN`, the times and `RESONANCE` (10_state.md R19). -/
def finiteAbove (bound data : Word) : Bool := fFinite data && fLt bound data

/-- `0.0 <= v <= 1.0`: the legal values of the ramp multipliers (10_state.md R19). -/
def zeroToOne (data : Word) : Bool := fLe 0#32 data && fLe data 0x3F800000#32

/-- `DATA` is a legal write value of the register (10_state.md R19, 44_config_access.md R78). -/
def legalValue (p : Params) (r : CfgReg) (data : Word) : Bool :=
  match r with
  | .ctrl => (ctrlOf data).isSome
  | .peak => finiteAbove Config.envFloor data
  | .sustain => finiteAbove Config.envFloor data
  | .attackT => finiteAbove 0#32 data
  | .decayT => finiteAbove 0#32 data
  | .releaseT => finiteAbove 0#32 data
  | .cutoff => finiteAbove 0#32 data && fLt data (fMul (rateWord p) 0x3F000000#32)
  | .resonance => finiteAbove 0#32 data
  | .volUp => zeroToOne data
  | .volDown => zeroToOne data
  | .panUp => zeroToOne data
  | .panDown => zeroToOne data

/-- `MemRead` of a configuration register; `none` is `UNSET` (10_state.md R19). -/
def ConfigRegs.read (c : ConfigRegs) : CfgReg → Option Word
  | .ctrl => c.ctrl.map ctrlWord
  | .peak => c.peak
  | .sustain => c.sustain
  | .attackT => c.attackT
  | .decayT => c.decayT
  | .releaseT => c.releaseT
  | .cutoff => c.cutoff
  | .resonance => c.resonance
  | .volUp => c.volUp
  | .volDown => c.volDown
  | .panUp => c.panUp
  | .panDown => c.panDown

/-- `MemWrite` of a legal value to a configuration register (10_state.md R19, 44_config_access.md R78). -/
def ConfigRegs.write (c : ConfigRegs) (r : CfgReg) (data : Word) : ConfigRegs :=
  match r with
  | .ctrl => { c with ctrl := ctrlOf data }
  | .peak => { c with peak := some data }
  | .sustain => { c with sustain := some data }
  | .attackT => { c with attackT := some data }
  | .decayT => { c with decayT := some data }
  | .releaseT => { c with releaseT := some data }
  | .cutoff => { c with cutoff := some data }
  | .resonance => { c with resonance := some data }
  | .volUp => { c with volUp := some data }
  | .volDown => { c with volDown := some data }
  | .panUp => { c with panUp := some data }
  | .panDown => { c with panDown := some data }

/-- The configuration, when no register holds `UNSET` (40_channel_commands.md R45). -/
def ConfigRegs.settings (c : ConfigRegs) : Option Settings := do
  let ctrl ← c.ctrl
  let peak ← c.peak
  let sustain ← c.sustain
  let attackT ← c.attackT
  let decayT ← c.decayT
  let releaseT ← c.releaseT
  let cutoff ← c.cutoff
  let resonance ← c.resonance
  let volUp ← c.volUp
  let volDown ← c.volDown
  let panUp ← c.panUp
  let panDown ← c.panDown
  some { ctrl, peak, sustain, attackT, decayT, releaseT, cutoff, resonance, volUp, volDown, panUp, panDown }

end Sys2Proof.Machine
end

