-- ==== Sys2Proof/Machine/Ops.lean ====
section
/-! DEFINITION. The named operations over the state: registers, taking a fault and leaving it, the error procedures,
and the top-level gates of an operation. -/

namespace Sys2Proof.Machine

/-- `V[i]` (00_scope.md R8). -/
def State.voice (s : State) (i : Slot) : Voice := s.voices[i.val]

/-- `V[i] <- v` (00_scope.md R8). -/
def State.setVoice (s : State) (i : Slot) (v : Voice) : State := { s with voices := s.voices.set i.val v }

/-- What an operation outputs, seen by the host (70_reset_and_hazards.md R103, log 3). -/
def State.emit (o : Output) (s : State) : State := { s with observed := s.observed ++ [o] }

/-- `raise Fault(cause)`: MODE, FAULT_CAUSE and the cause's flag; every other part of the state stays
(60_exceptions.md R89). -/
def State.takeFault (c : Cause) (s : State) : State :=
  { s.flagged c with mode := .faulted, faultCause := causeCode c }

/-- The one way out of `FAULTED`: the construction state (60_exceptions.md R90, 70_reset_and_hazards.md R97). The
model's own fields stay: the engine's parameters and the host's side (log 16). -/
def State.reconstructed (s : State) : State :=
  { State.construction s.params with arriving := s.arriving, observed := s.observed }

/-- An operation that ends by raising a fault: `s` is the state before it (60_exceptions.md R89). -/
def raise (c : Cause) (s : State) : Result := .next (s.takeFault c)

/-- A protocol or configuration error: set its flag; strict faults, hardened goes on as `logged`
(60_exceptions.md R84, R85). -/
def policyError (c : Cause) (s : State) (logged : State → State) : Result :=
  if s.params.strict then raise c (s.flagged c) else .next (logged (s.flagged c))

/-- `ProtoError()` (60_exceptions.md R84). -/
def protoError (s : State) : Result := policyError .proto s id

/-- `CfgRefused()` of a write (44_config_access.md R80). -/
def writeRefused (s : State) : Result := policyError .cfg s id

/-- `CfgRefused(); return 0` of a read (44_config_access.md R79, R80). -/
def readRefused (s : State) : Result := policyError .cfg s (State.emit (.word 0))

/-- `NumericError()` of a PULL: `before` is the state before the pull, `after` the state with the pull's effects; a
hardened pull keeps the effects and outputs silence (60_exceptions.md R86, R89). -/
def numericError (before after : State) : Result :=
  if before.params.strict then raise .numeric before
  else .next ((after.flagged .numeric).emit (.frame 0 0 0 0))

/-- The FAULTED check of the top-level step (40_channel_commands.md R45, 60_exceptions.md R90, log 7). -/
def whenRunning (s : State) (k : Result) : Result :=
  match s.mode with
  | .run => k
  | .faulted => .fault .heldInFaulted

/-- The UNSET check of the top-level step (40_channel_commands.md R45, 60_exceptions.md R87). -/
def whenConfigured (s : State) (k : Settings → Result) : Result :=
  match s.cfg.settings with
  | some g => k g
  | none => raise .cfgUnset s

/-- The top-level step of a CMD row or PULL (40_channel_commands.md R45). -/
def configuredOp (s : State) (k : Settings → Result) : Result := whenRunning s (whenConfigured s k)

/-- The top-level step of an ILLEGAL row (40_channel_commands.md R45, R56). -/
def illegalOp (s : State) : Result := whenRunning s (protoError s)

/-- The word a configuration-space read answers; `none` for a reserved address and for `UNSET`
(10_state.md R19 to R21). -/
def State.readReg (s : State) : RegName → Option Word
  | .cfg r => s.cfg.read r
  | .status => some (statusWord s)
  | .program => some (0#25 ++ s.program)
  | .bend => some (s.bend.signExtend 32)
  | .volValue => some s.vol.value
  | .volTarget => some s.vol.target
  | .panValue => some s.pan.value
  | .panTarget => some s.pan.target
  | .voiceStat i => some (voiceStatWord (s.voice i))
  | .voiceElapsed i => some (s.voice i).elapsed
  | .voiceLevel i => some (s.voice i).level
  | .voicePhase i => some (s.voice i).phase
  | .reserved => none

/-- The operation word the host presents next, and the state once it is taken (00_scope.md R9, log 2). -/
def State.takeOperation (s : State) : Option (OpWord × State) :=
  match s.arriving with
  | [] => none
  | w :: rest => some (w, { s with arriving := rest })

/-- The host presents a word ahead of the others (00_scope.md R9, log 2). -/
def State.present (s : State) (w : OpWord) : State := { s with arriving := w :: s.arriving }

end Sys2Proof.Machine
end

