-- ==== Sys2Proof/Machine/ConfigAccess.lean ====
section
/-! DEFINITION. Configuration access (44_config_access.md R78 to R81). -/

namespace Sys2Proof.Machine

/-- CFG_WR (44_config_access.md R78, R80, R81). -/
def execCfgWr (addr : BitVec 8) (data : Word) (s : State) : Result :=
  whenRunning s
    (match regAt addr with
    | .cfg r =>
      if legalValue s.params r data then .next { s with cfg := s.cfg.write r data } else writeRefused s
    | .status => if statusWriteRefused data then writeRefused s else .next (s.clearFlags data)
    | _ => writeRefused s)

/-- CFG_RD (44_config_access.md R79). In FAULTED a reserved or UNSET read has no step (R79, 60_exceptions.md R90,
log 8). -/
def execCfgRd (addr : BitVec 8) (s : State) : Result :=
  match s.readReg (regAt addr), s.mode with
  | some w, _ => .next (s.emit (.word w))
  | none, .run => if regAt addr = .reserved then readRefused s else raise .cfgUnset s
  | none, .faulted => .fault (if regAt addr = .reserved then .reservedReadInFaulted else .unsetReadInFaulted)

end Sys2Proof.Machine
end

