-- ==== Sys2Proof/Machine/Controllers.lean ====
section
/-! DEFINITION. The controller commands (40_channel_commands.md R50 to R53). -/

namespace Sys2Proof.Machine

/-- A controller that is neither volume nor pan: on the allow-list it has no effect, off it it is a protocol error
(R52, R53, log 11). -/
def otherController (cc : BitVec 7) (s : State) : Result :=
  if s.params.ignoredCc.contains cc then configuredOp s fun _ => .next s else illegalOp s

/-- CC_VOLUME (R50). -/
def execCcVolume (val : BitVec 7) (s : State) : Result :=
  configuredOp s fun _ => .next { s with vol := { s.vol with target := controllerLevel val } }

/-- CC_PAN (R51). -/
def execCcPan (val : BitVec 7) (s : State) : Result :=
  configuredOp s fun _ => .next { s with pan := { s.pan with target := controllerLevel val } }

/-- CC_IGNORED_1 (R52). -/
def execCcIgnored1 (s : State) : Result := otherController 1#7 s

/-- CC_IGNORED_64 (R52). -/
def execCcIgnored64 (s : State) : Result := otherController 64#7 s

/-- CC_IGNORED_91 (R52). -/
def execCcIgnored91 (s : State) : Result := otherController 91#7 s

/-- CC_IGNORED_92 (R52). -/
def execCcIgnored92 (s : State) : Result := otherController 92#7 s

/-- CC_IGNORED_93 (R52). -/
def execCcIgnored93 (s : State) : Result := otherController 93#7 s

/-- CC_IGNORED_94 (R52). -/
def execCcIgnored94 (s : State) : Result := otherController 94#7 s

/-- CC_IGNORED_95 (R52). -/
def execCcIgnored95 (s : State) : Result := otherController 95#7 s

/-- CC_UNHANDLED (R53, log 11). -/
def execCcUnhandled (cc : BitVec 7) (s : State) : Result := otherController cc s

end Sys2Proof.Machine
end

