-- ==== Sys2Proof/Machine/Illegal.lean ====
section
/-! DEFINITION. The ILLEGAL rows (30_encoding.md R41, 40_channel_commands.md R56). -/

namespace Sys2Proof.Machine

/-- ILLEGAL_OPWORD (R56). -/
def execIllegalOpword (s : State) : Result := illegalOp s

/-- ILLEGAL_NO_STATUS (R56). -/
def execIllegalNoStatus (s : State) : Result := illegalOp s

/-- ILLEGAL_CHANNEL_PRESSURE (R56). -/
def execIllegalChannelPressure (s : State) : Result := illegalOp s

/-- ILLEGAL_SYSTEM (R56). -/
def execIllegalSystem (s : State) : Result := illegalOp s

/-- ILLEGAL_DATA1 (R56). -/
def execIllegalData1 (s : State) : Result := illegalOp s

/-- ILLEGAL_DATA2 (R56). -/
def execIllegalData2 (s : State) : Result := illegalOp s

end Sys2Proof.Machine
end

