-- ==== Sys2Proof/Machine/Envelope.lean ====
section
/-! DEFINITION. The envelope procedures of a voice (42_envelope.md). A procedure that raises a fault answers its
cause and changes nothing. -/

namespace Sys2Proof.Machine

/-- `RampMult(start, end, T)` (42_envelope.md R63). -/
def rampMult (n : Numerics) (p : Params) (start stop time : Word) : Except Cause Word :=
  let d := fSub (n.ln stop) (n.ln start)
  let q := fDiv d (fMul time (rateWord p))
  let m := fAdd 0x3F800000#32 q
  if fFinite m && fLt 0#32 m then .ok m else .error .envParam

/-- `EnvKeyOn` (42_envelope.md R64). -/
def envKeyOn (n : Numerics) (p : Params) (g : Settings) (v : Voice) : Except Cause Voice :=
  if v.env = .off ∨ p.retrigger = .restart then
    if fLt g.peak g.sustain then .error .envParam
    else
      match rampMult n p Config.envFloor g.peak g.attackT with
      | .error c => .error c
      | .ok m => .ok { v with env := .attack, level := Config.envFloor, mult := m }
  else .ok v

/-- `EnvKeyOff` (42_envelope.md R65). -/
def envKeyOff (n : Numerics) (p : Params) (g : Settings) (v : Voice) : Except Cause Voice :=
  if v.env = .attack ∨ v.env = .decay ∨ v.env = .sustain then
    match rampMult n p g.sustain Config.envFloor g.releaseT with
    | .error c => .error c
    | .ok m => .ok { v with env := .release, mult := m }
  else .ok v

/-- The attack-to-decay transition: the level is clamped to PEAK (42_envelope.md R66). -/
def attackEnd (n : Numerics) (p : Params) (g : Settings) (v : Voice) : Except Cause Voice :=
  if fLt g.peak g.sustain then .error .envParam
  else
    match rampMult n p g.peak g.sustain g.decayT with
    | .error c => .error c
    | .ok md =>
      if fLt (fMul g.sustain md) Config.envFloor then .error .envParam
      else .ok { v with level := g.peak, mult := md, env := .decay }

/-- The state change of `EnvStep`: multiply, then at most one transition (42_envelope.md R66). -/
def envAdvance (n : Numerics) (p : Params) (g : Settings) (v : Voice) : Except Cause Voice :=
  let level := fMul v.level v.mult
  match v.env with
  | .attack => if fLe g.peak level then attackEnd n p g v else .ok { v with level := level }
  | .decay =>
    if fLe level g.sustain then .ok { v with level := level, env := .sustain, mult := 0x3F800000#32 }
    else .ok { v with level := level }
  | .sustain => .ok v
  | .release =>
    if fLe level Config.envFloor then .ok { v with level := Config.envFloor, env := .off, phase := 0#32 }
    else .ok { v with level := level }
  | .off => .ok v

/-- `EnvStep(i, y)`: the voice after the step, and the sample (42_envelope.md R66). -/
def envStep (n : Numerics) (p : Params) (g : Settings) (v : Voice) (y : Word) : Except Cause (Voice × Word) :=
  match envAdvance n p g v with
  | .error c => .error c
  | .ok v' => .ok (v', if v'.env = .off then 0#32 else fMul y v'.level)

end Sys2Proof.Machine
end

