-- ==== Sys2Proof/Machine/Primitives.lean ====
section
/-! DEFINITION. The synthesis procedures (43_primitives.md): oscillator, parameter ramp, filters. -/

namespace Sys2Proof.Machine

/-- `OscSetFreq` (43_primitives.md R69). -/
def oscSetFreq (n : Numerics) (p : Params) (pk : BitVec 7) (v : Voice) : Voice :=
  let e := fDiv (fOfInt ((pk.toNat : Int) - 49)) 0x41400000#32
  let freq := fMul 0x43DC0000#32 (n.exp2 e)
  { v with inc := fDiv freq (rateWord p) }

/-- `OscOut` at a phase (43_primitives.md R70). -/
def oscOut (n : Numerics) (w : Waveform) (ph : Word) : Word :=
  match w with
  | .sine => n.sin (fMul 0x40C90FDB#32 ph)
  | .square => if fLt ph 0x3F000000#32 then 0x3F800000#32 else 0xBF800000#32
  | .triangle =>
    if fLt ph 0x3F000000#32 then fSub (fMul 0x40800000#32 ph) 0x3F800000#32
    else fSub 0x40400000#32 (fMul 0x40800000#32 ph)
  | .sawtooth => fSub (fMul 0x40000000#32 ph) 0x3F800000#32

/-- The phase one pull later (43_primitives.md R71). -/
def advancePhase (phase inc : Word) : Word :=
  let ph := fAdd phase inc
  if fLe 0x3F800000#32 ph then fSub ph 0x3F800000#32 else ph

/-- `OscAdvance` (43_primitives.md R71). -/
def oscAdvance (v : Voice) : Voice := { v with phase := advancePhase v.phase v.inc }

/-- `RampPull`: the ramp after one step; its value is what the procedure returns (43_primitives.md R72). -/
def rampPull (r : Ramp) (up down : Word) : Ramp :=
  let toward (k : Word) : Ramp := { r with value := fSub r.target (fMul (fSub r.target r.value) k) }
  if fLt r.value r.target then toward up
  else if fLt r.target r.value then toward down
  else r

/-- `BiquadStep` (43_primitives.md R74). -/
def biquadStep (n : Numerics) (p : Params) (g : Settings) (v : Voice) (x : Word) : Voice × Word :=
  let c := n.bqCoeffs g.ctrl.filterType g.cutoff (rateWord p)
  let y := fSub (fSub (fAdd (fAdd (fMul c.a0 x) (fMul c.a1 v.x1)) (fMul c.a2 v.x2)) (fMul c.b1 v.y1)) (fMul c.b2 v.y2)
  ({ v with x2 := v.x1, x1 := x, y2 := v.y1, y1 := y }, y)

/-- `SvfStep` (43_primitives.md R76). -/
def svfStep (n : Numerics) (p : Params) (g : Settings) (v : Voice) (x : Word) : Voice × Word :=
  let f1 := n.svfF g.cutoff (rateWord p)
  let q := n.svfQ g.resonance
  let low := fAdd v.low (fMul f1 v.band)
  let high := fSub (fSub x low) (fMul q v.band)
  let band := fAdd v.band (fMul f1 high)
  ({ v with low := low, band := band },
    match g.ctrl.filterType with
    | .lowPass => low
    | .bandPass => band
    | .highPass => high)

/-- `FilterStep` (43_primitives.md R73). -/
def filterStep (n : Numerics) (p : Params) (g : Settings) (v : Voice) (x : Word) : Voice × Word :=
  match g.ctrl.topo with
  | .biquad => biquadStep n p g v x
  | .stateVariable => svfStep n p g v x

end Sys2Proof.Machine
end

