-- ==== Sys2Proof/Machine/Notes.lean ====
section
/-! DEFINITION. The note commands (40_channel_commands.md R46 to R49). -/

namespace Sys2Proof.Machine

/-- The lowest slot bound to a key (R46 step (a), R48). -/
def boundSlot (s : State) (pk : BitVec 7) : Option Slot := slots.find? fun i => (s.voice i).key == pk

/-- The lowest slot that is off and unbound (R46 step (b)). -/
def freeSlot (s : State) : Option Slot :=
  slots.find? fun i => (s.voice i).env == .off && (s.voice i).key == Config.keyOff

/-- `max over j of V[j].elapsed` (R46 step (c)). -/
def maxElapsed (s : State) : Nat := slots.foldl (fun m i => max m (s.voice i).elapsed.toNat) 0

/-- The lowest slot with the greatest elapsed count (R46 step (c)). Some slot has it, so the default is never taken
(log 18). -/
def stealSlot (s : State) : Slot := (slots.find? fun i => (s.voice i).elapsed.toNat == maxElapsed s).getD 0

/-- The voice selection of a note-on (R46). -/
def selectSlot (s : State) (pk : BitVec 7) : Slot :=
  match boundSlot s pk with
  | some i => i
  | none =>
    match freeSlot s with
    | some i => i
    | none => stealSlot s

/-- What a note-on writes to the chosen voice (R46). -/
def keyOnVoice (n : Numerics) (p : Params) (g : Settings) (pk vel : BitVec 7) (v : Voice) : Except Cause Voice :=
  envKeyOn n p g { oscSetFreq n p pk { v with key := pk, vel := vel } with elapsed := 0 }

/-- `NOTE_ON` for a given choice of the OPEN functions (R46). -/
def noteOn (n : Numerics) (note vel : BitVec 7) (s : State) : Result :=
  configuredOp s fun g =>
    match pianoKey note with
    | none => protoError s
    | some pk =>
      let i := selectSlot s pk
      match keyOnVoice n s.params g pk vel (s.voice i) with
      | .error c => raise c s
      | .ok v => .next (s.setVoice i v)

/-- `NOTE_OFF` for a given choice of the OPEN functions (R48). -/
def noteOff (n : Numerics) (note : BitVec 7) (s : State) : Result :=
  configuredOp s fun g =>
    match pianoKey note with
    | none => protoError s
    | some pk =>
      match boundSlot s pk with
      | none => .next s
      | some i =>
        match envKeyOff n s.params g (s.voice i) with
        | .error c => raise c s
        | .ok v => .next (s.setVoice i v)

/-- NOTE_ON (R46). -/
def execNoteOn (note vel : BitVec 7) (s : State) : Result := noteOn Config.numerics note vel s

/-- NOTE_ON_VEL0: performs the rule of NOTE_OFF (R47). -/
def execNoteOnVel0 (note : BitVec 7) (s : State) : Result := noteOff Config.numerics note s

/-- NOTE_OFF; the release velocity is ignored (R48). -/
def execNoteOff (note : BitVec 7) (s : State) : Result := noteOff Config.numerics note s

/-- POLY_PRESSURE: no effect for a note with a PianoKey (R49). -/
def execPolyPressure (note : BitVec 7) (s : State) : Result :=
  configuredOp s fun _ =>
    match pianoKey note with
    | none => protoError s
    | some _ => .next s

end Sys2Proof.Machine
end

