-- ==== Sys2Proof/Machine/ProgramBend.lean ====
section
/-! DEFINITION. Program change and pitch bend (40_channel_commands.md R54, R55). -/

namespace Sys2Proof.Machine

/-- PROGRAM_CHANGE (R54). -/
def execProgramChange (prog : BitVec 7) (s : State) : Result :=
  configuredOp s fun _ => .next { s with program := prog }

/-- PITCH_BEND (R55). -/
def execPitchBend (lsb msb : BitVec 7) (s : State) : Result :=
  configuredOp s fun _ => .next { s with bend := bendOperand lsb msb }

end Sys2Proof.Machine
end

