-- ==== Sys2Proof/Machine/Render.lean ====
section
/-! DEFINITION. The sample render (41_render.md). -/

namespace Sys2Proof.Machine

/-- `VoiceSample(i)`: oscillator, filter, envelope, in that order (41_render.md R58). -/
def voiceSample (n : Numerics) (p : Params) (g : Settings) (v : Voice) : Except Cause (Voice × Word) :=
  if v.env = .off then .ok (v, 0#32)
  else
    let o := oscOut n g.ctrl.waveform v.phase
    let filtered := filterStep n p g (oscAdvance v) o
    envStep n p g filtered.1 filtered.2

/-- The voice sum over the given slots, in order, from the sum so far: each slot's voice is advanced and its sample
added (41_render.md R57); the first fault ends it (60_exceptions.md R91). -/
def renderSlots (n : Numerics) (p : Params) (g : Settings) :
    List Slot → Vector Voice 32 → Word → Except Cause (Vector Voice 32 × Word)
  | [], vs, acc => .ok (vs, acc)
  | i :: rest, vs, acc =>
    match voiceSample n p g vs[i.val] with
    | .error c => .error c
    | .ok (v, y) => renderSlots n p g rest (vs.set i.val v) (fAdd acc y)

/-- `Pan(m, p)` (41_render.md R59). -/
def panSplit (m p : Word) : Word × Word := (fMul m (fSub 0x3F800000#32 p), fMul m p)

/-- `S16(x)` of a finite sample (41_render.md R60). -/
def toS16 (x : Word) : BitVec 16 :=
  let y := fMul x 0x46FFFE00#32
  if fLe 0x46FFFE00#32 y then 32767#16
  else if fLe y 0xC7000000#32 then 0x8000#16
  else BitVec.ofInt 16 (fTrunc y)

/-- One more pull since the voice's note-on, saturating (41_render.md R61). -/
def tickElapsed (v : Voice) : Voice :=
  { v with elapsed := if v.elapsed = 0xFFFFFFFF#32 then v.elapsed else v.elapsed + 1#32 }

/-- The state a pull leaves, given the rendered voices: both ramps advanced, every elapsed counter ticked
(41_render.md R57, R61). -/
def pulledState (g : Settings) (vs : Vector Voice 32) (s : State) : State :=
  { s with
    voices := vs.map tickElapsed
    vol := rampPull s.vol g.volUp g.volDown
    pan := rampPull s.pan g.panUp g.panDown }

/-- The output stage of a pull: volume, pan, the finiteness check, the outputs (41_render.md R57, R59, R60). -/
def outputStage (before after : State) (acc : Word) : Result :=
  let lr := panSplit (fMul acc after.vol.value) after.pan.value
  if fFinite lr.1 && fFinite lr.2 then .next (after.emit (.frame lr.1 lr.2 (toS16 lr.1) (toS16 lr.2)))
  else numericError before after

/-- `PULL` for a given choice of the OPEN functions (41_render.md R57). -/
def pullWith (n : Numerics) (s : State) : Result :=
  configuredOp s fun g =>
    match renderSlots n s.params g slots s.voices 0#32 with
    | .error c => raise c s
    | .ok (vs, acc) => outputStage s (pulledState g vs s) acc

/-- PULL (41_render.md R57). -/
def execPull (s : State) : Result := pullWith Config.numerics s

end Sys2Proof.Machine
end

