-- ==== Sys2Proof/Machine/ResetOp.lean ====
section
/-! DEFINITION. RESET (70_reset_and_hazards.md R97). -/

namespace Sys2Proof.Machine

/-- RESET: a step in every mode (70_reset_and_hazards.md R97). -/
def execReset (s : State) : Result := .next s.reconstructed

end Sys2Proof.Machine
end

