-- ==== Sys2Proof/Machine/Dispatch.lean ====
section
/-! DEFINITION. One arm per operation of the opcode table. -/

namespace Sys2Proof.Machine

-- The meaning of an operation (00_scope.md R9). The channel index selects nothing (30_encoding.md R36).
def exec (i : Instr) (s : State) : Host.Outcome State Fault Refusal :=
  match i with
  | .illegalOpword _ => Sys2Proof.Machine.execIllegalOpword s
  | .illegalNoStatus _ _ _ _ => Sys2Proof.Machine.execIllegalNoStatus s
  | .illegalChannelPressure _ _ _ => Sys2Proof.Machine.execIllegalChannelPressure s
  | .illegalSystem _ _ _ => Sys2Proof.Machine.execIllegalSystem s
  | .illegalData1 _ _ _ _ => Sys2Proof.Machine.execIllegalData1 s
  | .programChange _ prog _ => Sys2Proof.Machine.execProgramChange prog s
  | .illegalData2 _ _ _ _ => Sys2Proof.Machine.execIllegalData2 s
  | .noteOnVel0 _ note => Sys2Proof.Machine.execNoteOnVel0 note s
  | .ccVolume _ val => Sys2Proof.Machine.execCcVolume val s
  | .ccPan _ val => Sys2Proof.Machine.execCcPan val s
  | .ccIgnored1 _ _ => Sys2Proof.Machine.execCcIgnored1 s
  | .ccIgnored64 _ _ => Sys2Proof.Machine.execCcIgnored64 s
  | .ccIgnored91 _ _ => Sys2Proof.Machine.execCcIgnored91 s
  | .ccIgnored92 _ _ => Sys2Proof.Machine.execCcIgnored92 s
  | .ccIgnored93 _ _ => Sys2Proof.Machine.execCcIgnored93 s
  | .ccIgnored94 _ _ => Sys2Proof.Machine.execCcIgnored94 s
  | .ccIgnored95 _ _ => Sys2Proof.Machine.execCcIgnored95 s
  | .noteOff _ note _ => Sys2Proof.Machine.execNoteOff note s
  | .noteOn _ note vel => Sys2Proof.Machine.execNoteOn note vel s
  | .polyPressure _ note _ => Sys2Proof.Machine.execPolyPressure note s
  | .ccUnhandled _ cc _ => Sys2Proof.Machine.execCcUnhandled cc s
  | .pitchBend _ lsb msb => Sys2Proof.Machine.execPitchBend lsb msb s
  | .pull => Sys2Proof.Machine.execPull s
  | .cfgWr addr data => Sys2Proof.Machine.execCfgWr addr data s
  | .cfgRd addr => Sys2Proof.Machine.execCfgRd addr s
  | .reset => Sys2Proof.Machine.execReset s

end Sys2Proof.Machine
end

