-- ==== Sys2Proof/Machine/Step.lean ====
section
/-! DEFINITION. One step: the engine performs the operation the host presents next (00_scope.md R9, R11). -/

namespace Sys2Proof.Machine

/-- One operation of the engine. With no operation presented the engine makes no progress and its state stays
(70_reset_and_hazards.md R101, log 2). -/
def step (s : State) : Host.Outcome State Fault Refusal :=
  match s.takeOperation with
  | some (w, s') => exec (decode w) s'
  | none => .next s

/-- The host presents the operation word numbered `w` next (log 2, 9). -/
def State.withFetchWord (s : State) (_nbits w : Nat) : State := s.present (BitVec.ofNat 43 w)

end Sys2Proof.Machine
end

