-- ==== Sys2Proof/Machine/Assembler.lean ====
section
/-! DEFINITION. The assembler's lines and the operation words they stand for (30_encoding.md R43, R44). The lexing of
a line's text is the host's (log 19). -/

namespace Sys2Proof.Machine

/-- The data operand of a CFG_WR line (30_encoding.md R43, R44). -/
inductive AsmNumber where
  /-- An integer, decimal or hexadecimal: the 32 bits it stands for. -/
  | bits (w : Word)
  /-- A decimal real: its sign, its digits as a whole number, and how many of them stand after the point. -/
  | real (neg : Bool) (digits places : Nat)
  deriving DecidableEq, Repr

/-- `bits(x)`: a decimal real is converted to its nearest binary32 (30_encoding.md R43, R44). -/
def asmBits : AsmNumber → Word
  | .bits w => w
  | .real neg digits places => roundWord neg (digits * 2 ^ 149) (10 ^ places)

/-- A line: one operation (30_encoding.md R43), or a pseudo-operation (R44). -/
inductive AsmLine where
  | noteOff (ch : BitVec 4) (note vel : BitVec 7)
  | noteOn (ch : BitVec 4) (note vel : BitVec 7)
  | polyPressure (ch : BitVec 4) (note p : BitVec 7)
  | cc (ch : BitVec 4) (num val : BitVec 7)
  | programChange (ch : BitVec 4) (prog : BitVec 7)
  | pitchBend (ch : BitVec 4) (raw14 : BitVec 14)
  | pull
  | cfgWr (addr : BitVec 8) (data : AsmNumber)
  | cfgRd (addr : BitVec 8)
  | reset
  /-- `CC_VOLUME ch, v` (R44). -/
  | ccVolume (ch : BitVec 4) (v : BitVec 7)
  /-- `CC_PAN ch, v` (R44). -/
  | ccPan (ch : BitVec 4) (v : BitVec 7)
  /-- `PULL *k` (R44). -/
  | pulls (k : Nat)
  /-- `CFG_WR NAME, x` (R44). -/
  | cfgWrNamed (r : CfgReg) (x : AsmNumber)
  deriving DecidableEq, Repr

/-- A `CMD` word of a status nibble, a channel and two data bytes (30_encoding.md R43). -/
def asmCommand (op ch : BitVec 4) (d1 d2 : BitVec 8) : OpWord := 0#19 ++ op ++ ch ++ d1 ++ d2

/-- The `CFG` word of a write (30_encoding.md R43). -/
def asmCfgWr (addr : BitVec 8) (data : Word) : OpWord := 0b101#3 ++ addr ++ data

/-- The operation words of a line (30_encoding.md R43, R44). -/
def assemble : AsmLine → List OpWord
  | .noteOff ch note vel => [asmCommand 0x8#4 ch (0#1 ++ note) (0#1 ++ vel)]
  | .noteOn ch note vel => [asmCommand 0x9#4 ch (0#1 ++ note) (0#1 ++ vel)]
  | .polyPressure ch note p => [asmCommand 0xA#4 ch (0#1 ++ note) (0#1 ++ p)]
  | .cc ch num val => [asmCommand 0xB#4 ch (0#1 ++ num) (0#1 ++ val)]
  | .programChange ch prog => [asmCommand 0xC#4 ch (0#1 ++ prog) 0x00#8]
  | .pitchBend ch raw => [asmCommand 0xE#4 ch (0#1 ++ raw.extractLsb' 0 7) (0#1 ++ raw.extractLsb' 7 7)]
  | .pull => [0b01#2 ++ 0#41]
  | .cfgWr addr data => [asmCfgWr addr (asmBits data)]
  | .cfgRd addr => [0b100#3 ++ addr ++ 0#32]
  | .reset => [0b11#2 ++ 0#41]
  | .ccVolume ch v => [asmCommand 0xB#4 ch (0#1 ++ Config.ccVolume) (0#1 ++ v)]
  | .ccPan ch v => [asmCommand 0xB#4 ch (0#1 ++ Config.ccPan) (0#1 ++ v)]
  | .pulls k => List.replicate k (0b01#2 ++ 0#41)
  | .cfgWrNamed r x => [asmCfgWr (cfgAddress r) (asmBits x)]

end Sys2Proof.Machine
end

