-- ==== Sys2Proof/Safety.lean ====
section
/-! DEFINITION. What the spec asks of a state and of a run (10_state.md R12, R15, R19; 70_reset_and_hazards.md
R103). -/

namespace Sys2Proof.Machine

/-- `FAULT_CAUSE` is 0 in RUN and the code of a cause in FAULTED (10_state.md R12, 60_exceptions.md R83). -/
def State.causeMatchesMode (s : State) : Prop :=
  match s.mode with
  | .run => s.faultCause = 0
  | .faulted => ∃ c : Cause, s.faultCause = causeCode c

/-- At most one voice has `key == k` for any `k` in 1..88, and no key is above 88 (10_state.md R14, R15). -/
def State.keysDistinct (s : State) : Prop :=
  (∀ i : Slot, (s.voice i).key.toNat ≤ 88) ∧
    ∀ i j : Slot, (s.voice i).key = (s.voice j).key → (s.voice i).key ≠ Config.keyOff → i = j

/-- Every configuration register that is not `UNSET` holds a legal write value (10_state.md R19). -/
def State.configLegal (s : State) : Prop :=
  ∀ (r : CfgReg) (w : Word), s.cfg.read r = some w → legalValue s.params r w = true

/-- The invariant of the engine that needs nothing of the OPEN functions (10_state.md R12, R14, R15, R19;
00_scope.md R6). -/
def State.wellKept (s : State) : Prop :=
  s.causeMatchesMode ∧ s.keysDistinct ∧ s.configLegal ∧ s.params.rateInRange

/-- The level of a voice whose envelope is not off lies in [FLOOR, PEAK] (10_state.md R15, 90_conflicts.md C6). -/
def levelInRange (g : Settings) (v : Voice) : Prop :=
  v.env ≠ .off → fLe Config.envFloor v.level = true ∧ fLe v.level g.peak = true

/-- `0.0 <= x < 1.0` (10_state.md R14, R15). -/
def inUnitPhase (x : Word) : Prop := fLe 0#32 x = true ∧ fLt x 0x3F800000#32 = true

/-- The engine runs and every configuration register holds a value: `g` (40_channel_commands.md R45,
70_reset_and_hazards.md R99). -/
def State.ready (s : State) (g : Settings) : Prop := s.mode = .run ∧ s.cfg.settings = some g

/-- The state after writing registers one by one, where every write is carried out
(70_reset_and_hazards.md R99). -/
def afterWrites : List (CfgReg × Word) → State → Option State
  | [], s => some s
  | (r, d) :: rest, s =>
    match execCfgWr (cfgAddress r) d s with
    | .next t => afterWrites rest t
    | .fault _ => none
    | .refused _ => none

/-- The answer of a protocol error (60_exceptions.md R84): the flag, and in strict mode the fault. -/
def afterProtoError (s : State) : State :=
  if s.params.strict then { s with errProto := true, mode := .faulted, faultCause := 1 }
  else { s with errProto := true }

/-- The answer of a refused configuration access, less a read's result (60_exceptions.md R85). -/
def afterCfgRefused (s : State) : State :=
  if s.params.strict then { s with errCfg := true, mode := .faulted, faultCause := 2 }
  else { s with errCfg := true }

/-- A note with a PianoKey (30_encoding.md R35). -/
def onPiano (note : BitVec 7) : Bool := decide (21 ≤ note.toNat ∧ note.toNat ≤ 108)

/-- The operation is outside the modelled protocol of an engine with these parameters (60_exceptions.md R84; for the
controllers, log 11). -/
def protocolError (p : Params) : Instr → Bool
  | .illegalOpword _ => true
  | .illegalNoStatus _ _ _ _ => true
  | .illegalChannelPressure _ _ _ => true
  | .illegalSystem _ _ _ => true
  | .illegalData1 _ _ _ _ => true
  | .programChange _ _ _ => false
  | .illegalData2 _ _ _ _ => true
  | .noteOnVel0 _ note => !onPiano note
  | .ccVolume _ _ => false
  | .ccPan _ _ => false
  | .ccIgnored1 _ _ => !p.ignoredCc.contains 1#7
  | .ccIgnored64 _ _ => !p.ignoredCc.contains 64#7
  | .ccIgnored91 _ _ => !p.ignoredCc.contains 91#7
  | .ccIgnored92 _ _ => !p.ignoredCc.contains 92#7
  | .ccIgnored93 _ _ => !p.ignoredCc.contains 93#7
  | .ccIgnored94 _ _ => !p.ignoredCc.contains 94#7
  | .ccIgnored95 _ _ => !p.ignoredCc.contains 95#7
  | .noteOff _ note _ => !onPiano note
  | .noteOn _ note _ => !onPiano note
  | .polyPressure _ note _ => !onPiano note
  | .ccUnhandled _ cc _ => !p.ignoredCc.contains cc
  | .pitchBend _ _ _ => false
  | .pull => false
  | .cfgWr _ _ => false
  | .cfgRd _ => false
  | .reset => false

/-- The operation is a command that is no protocol error by its row, or PULL: it needs every configuration register
(40_channel_commands.md R45, 60_exceptions.md R87; for the controllers, log 11). -/
def needsConfiguration (p : Params) : Instr → Bool
  | .illegalOpword _ => false
  | .illegalNoStatus _ _ _ _ => false
  | .illegalChannelPressure _ _ _ => false
  | .illegalSystem _ _ _ => false
  | .illegalData1 _ _ _ _ => false
  | .programChange _ _ _ => true
  | .illegalData2 _ _ _ _ => false
  | .noteOnVel0 _ _ => true
  | .ccVolume _ _ => true
  | .ccPan _ _ => true
  | .ccIgnored1 _ _ => p.ignoredCc.contains 1#7
  | .ccIgnored64 _ _ => p.ignoredCc.contains 64#7
  | .ccIgnored91 _ _ => p.ignoredCc.contains 91#7
  | .ccIgnored92 _ _ => p.ignoredCc.contains 92#7
  | .ccIgnored93 _ _ => p.ignoredCc.contains 93#7
  | .ccIgnored94 _ _ => p.ignoredCc.contains 94#7
  | .ccIgnored95 _ _ => p.ignoredCc.contains 95#7
  | .noteOff _ _ _ => true
  | .noteOn _ _ _ => true
  | .polyPressure _ _ _ => true
  | .ccUnhandled _ cc _ => p.ignoredCc.contains cc
  | .pitchBend _ _ _ => true
  | .pull => true
  | .cfgWr _ _ => false
  | .cfgRd _ => false
  | .reset => false

/-- A write the engine carries out: a legal value to a configuration register, or a `STATUS` write with no 1 outside
[3:1] (44_config_access.md R78, R81). -/
def writeAccepted (p : Params) (a : BitVec 8) (data : Word) : Prop :=
  (∃ r, a = cfgAddress r ∧ legalValue p r data = true) ∨ (a = 0x10#8 ∧ data &&& 0xFFFFFFF1#32 = 0#32)

/-- The operation is a configuration access that is refused (44_config_access.md R80). -/
def accessRefused (p : Params) (i : Instr) : Prop :=
  (∃ a data, i = .cfgWr a data ∧ ¬writeAccepted p a data) ∨ ∃ a, i = .cfgRd a ∧ regAt a = .reserved

/-- The pull of this state gives an output that is not finite, each voice's sample being computed without a fault
(41_render.md R57, 60_exceptions.md R86). -/
def outputNotFinite (s : State) : Prop :=
  ∃ (g : Settings) (f : Slot → Voice × Word), s.cfg.settings = some g ∧
    (∀ i, voiceSample Config.numerics s.params g (s.voice i) = .ok (f i)) ∧
    let acc := slots.foldl (fun a i => fAdd a (f i).2) 0#32
    let m := fMul acc (rampPull s.vol g.volUp g.volDown).value
    let pan := (rampPull s.pan g.panUp g.panDown).value
    ¬(fFinite (fMul m (fSub 0x3F800000#32 pan)) = true ∧ fFinite (fMul m pan) = true)

/-- The operation is a note-on or a note-off: what reads keys and elapsed counts (40_channel_commands.md R46 to
R48). -/
def playsNote (i : Instr) : Prop :=
  (∃ ch note vel, i = .noteOn ch note vel) ∨ (∃ ch note vel, i = .noteOff ch note vel) ∨ ∃ ch note, i = .noteOnVel0 ch note

/-- The state after `k` pulls of which none faults (41_render.md R61). -/
def afterPulls : Nat → State → Option State
  | 0, s => some s
  | k + 1, s =>
    match execPull s with
    | .next t => if t.mode = .run then afterPulls k t else none
    | .fault _ => none
    | .refused _ => none

/-- What may move an envelope (42_envelope.md R62). -/
inductive EnvEvent where
  | keyOn
  | keyOff
  | envStep
  deriving DecidableEq, Repr

/-- The transition table of the envelope, and staying put (42_envelope.md R62). -/
def envMove (p : Params) : EnvEvent → EnvState → EnvState → Bool
  | .keyOn, a, b => b == a || (b == .attack && (a == .off || p.retrigger == .restart))
  | .keyOff, a, b => b == a || (b == .release && (a == .attack || a == .decay || a == .sustain))
  | .envStep, a, b =>
    b == a || (a == .attack && b == .decay) || (a == .decay && b == .sustain) || (a == .release && b == .off)

/-- A logarithm that keeps order above 0.0, where FLOOR, PEAK and SUSTAIN lie: nothing else of `LN` is asked
(10_state.md R19, 42_envelope.md R63). -/
def lnKeepsOrder (n : Numerics) : Prop :=
  ∀ a b : Word, fLt 0#32 a = true → fLt 0#32 b = true → fLe a b = true → fLe (n.ln a) (n.ln b) = true

/-- What a voice's envelope keeps while the configuration `g` stands: the level invariant of 10_state.md R15 with the
multipliers of 42_envelope.md R64 to R66 that carry it. -/
def envelopeKept (g : Settings) (v : Voice) : Prop :=
  match v.env with
  | .off => True
  | .attack => levelInRange g v ∧ fLe 0x3F800000#32 v.mult = true ∧ fFinite v.mult = true
  | .decay =>
    levelInRange g v ∧ fLe g.sustain v.level = true ∧ fLt 0#32 v.mult = true ∧ fLe v.mult 0x3F800000#32 = true ∧
      fLe Config.envFloor (fMul g.sustain v.mult) = true ∧ fLe g.sustain g.peak = true
  | .sustain => levelInRange g v
  | .release => levelInRange g v ∧ fLt 0#32 v.mult = true ∧ fLe v.mult 0x3F800000#32 = true

/-- The envelope registers hold legal values (10_state.md R19). -/
def envelopeLegal (p : Params) (g : Settings) : Prop :=
  p.rateInRange ∧ legalValue p .peak g.peak = true ∧ legalValue p .sustain g.sustain = true ∧
    legalValue p .attackT g.attackT = true ∧ legalValue p .decayT g.decayT = true ∧
    legalValue p .releaseT g.releaseT = true

/-- Two voices that sound alike: they differ at most in key, velocity and elapsed count (40_channel_commands.md R46). -/
def Voice.soundsLike (v w : Voice) : Prop :=
  v.phase = w.phase ∧ v.inc = w.inc ∧ v.env = w.env ∧ v.level = w.level ∧ v.mult = w.mult ∧ v.x1 = w.x1 ∧
    v.x2 = w.x2 ∧ v.y1 = w.y1 ∧ v.y2 = w.y2 ∧ v.low = w.low ∧ v.band = w.band

/-- Two engines that sound alike: the program and bend registers, the flags, and each voice's key, velocity and elapsed
count may differ (10_state.md R17, 40_channel_commands.md R46). -/
def State.soundsLike (s t : State) : Prop :=
  s.mode = t.mode ∧ s.cfg = t.cfg ∧ s.vol = t.vol ∧ s.pan = t.pan ∧ s.params = t.params ∧
    ∀ i : Slot, (s.voice i).soundsLike (t.voice i)

/-- `z` is a finite binary32 nearest to `num / den` units of 2^-149, the even one of two equally near
(00_scope.md R7). -/
def nearestEven (z : Word) (num : Int) (den : Nat) : Prop :=
  ∃ s m, floatValue z = .fin s m ∧
    ∀ y t n, floatValue y = .fin t n →
      |signedUnits s m * den - num| ≤ |signedUnits t n * den - num| ∧
        (|signedUnits s m * den - num| = |signedUnits t n * den - num| →
          signedUnits t n = signedUnits s m ∨ z.getLsbD 0 = false)

/-- The least exact magnitude, in units of 2^-149, that rounds past the largest finite binary32: half a last place above
it, a tie whose even side is the infinity. -/
def overflowUnits : Nat := (2 ^ 25 - 1) * 2 ^ 252

/-- `z` is `num / den` units of 2^-149 rounded to nearest, ties to even: below the overflow bound a finite binary32,
from it on an infinity of the sign of `num` (00_scope.md R7). -/
def roundedNearest (z : Word) (num : Int) (den : Nat) : Prop :=
  if num.natAbs < overflowUnits * den then nearestEven z num den
  else floatValue z = .inf (decide (num < 0))

end Sys2Proof.Machine
end

