-- ==== Sys2Proof/Certificates/Slice0/Obligations.lean ====
section
/-! DEFINITION. The statements for the provers. Each docstring names the rule of spec/ it formalises. -/

open Sys2Proof Sys2Proof.Machine

/-! Encoding. -/

/-- 30_encoding.md R32, R33, R39: the word of a well-formed operation reads back as that operation. -/
def Obligations.DecodeAfterEncode : Prop :=
  ∀ i : Instr, i.wellFormed = true → decode (encode i) = i

/-- 30_encoding.md R39: every operation word has one reading, which is well formed and keeps every bit. -/
def Obligations.EncodeAfterDecode : Prop :=
  ∀ w : OpWord, (decode w).wellFormed = true ∧ encode (decode w) = w

/-- 30_encoding.md R39: the decoder selects the first row of the opcode table, in ascending priority, whose mask
matches; every word has one. -/
def Obligations.DecodeFollowsTheOpcodeTable : Prop :=
  ∀ w : OpWord, firstRow w = some (decode w).row

/-- 95_test_vectors.md section 2: words written out there decode as it says. -/
def Obligations.SpecWordsDecode : Prop :=
  decode 0x00000904564#43 = .noteOn 0 69 100 ∧
  decode 0x00000934500#43 = .noteOnVel0 3 69 ∧
  decode 0x00000804540#43 = .noteOff 0 69 64 ∧
  decode 0x00000B00764#43 = .ccVolume 0 100 ∧
  decode 0x00000B0407F#43 = .ccIgnored64 0 127 ∧
  decode 0x00000C005FF#43 = .programChange 0 5 0xFF ∧
  decode 0x00000D04000#43 = .illegalChannelPressure 0 0x40 0 ∧
  decode 0x20000000000#43 = .pull ∧
  decode 0x5013F800000#43 = .cfgWr 0x01 0x3F800000 ∧
  decode 0x4AA00000000#43 = .cfgRd 0xAA ∧
  decode 0x60000000000#43 = .reset ∧
  decode 0x70000000000#43 = .illegalOpword 0x70000000000

/-- 30_encoding.md R43, R44: the words the assembler makes decode to the operations its lines name; `NOTE_ON ch, note, 0`
decodes as NOTE_ON_VEL0, and the pseudo-operations are their expansions. -/
def Obligations.AssembledLinesDecode : Prop :=
  ∀ (ch : BitVec 4) (d e : BitVec 7) (raw : BitVec 14) (a : BitVec 8) (x : AsmNumber) (r : CfgReg) (k : Nat),
    (assemble (.noteOff ch d e)).map decode = [.noteOff ch d e] ∧
    (assemble (.noteOn ch d e)).map decode = [if e = 0 then .noteOnVel0 ch d else .noteOn ch d e] ∧
    (assemble (.polyPressure ch d e)).map decode = [.polyPressure ch d e] ∧
    (assemble (.cc ch d e)).map decode = [decodeController ch d e] ∧
    (assemble (.programChange ch d)).map decode = [.programChange ch d 0] ∧
    (assemble (.pitchBend ch raw)).map decode = [.pitchBend ch (raw.extractLsb' 0 7) (raw.extractLsb' 7 7)] ∧
    (assemble .pull).map decode = [.pull] ∧
    (assemble (.cfgWr a x)).map decode = [.cfgWr a (asmBits x)] ∧
    (assemble (.cfgRd a)).map decode = [.cfgRd a] ∧
    (assemble .reset).map decode = [.reset] ∧
    assemble (.ccVolume ch e) = assemble (.cc ch 7 e) ∧
    assemble (.ccPan ch e) = assemble (.cc ch 10 e) ∧
    (assemble (.pulls k)).map decode = List.replicate k .pull ∧
    assemble (.cfgWrNamed r x) = assemble (.cfgWr (cfgAddress r) x)

/-! The step. -/

/-- 00_scope.md R9, 10_state.md R11: a step performs the operation the host presents next, and nothing else. That the
host's words stand in a list of the state is the model's choice (log 2). -/
def Obligations.StepRunsThePresentedOperation : Prop :=
  (∀ (s : State) (w : OpWord) (rest : List OpWord) (i : Instr),
    s.arriving = w :: rest → decode w = i → step s = exec i { s with arriving := rest }) ∧
  ∀ (s : State) (nbits w : Nat), step (s.withFetchWord nbits w) = exec (decode (BitVec.ofNat 43 w)) s

/-- 30_encoding.md R36: the channel index of a command selects nothing, nor do the other ignored bits of
93_implementation_defined.md I16 to I18 and the value of an unhandled controller (40_channel_commands.md R53). -/
def Obligations.IgnoredOperandsChangeNothing : Prop :=
  ∀ (s : State) (op : BitVec 4) (op3 : BitVec 3) (ch ch' : BitVec 4) (d e e' : BitVec 7) (b b' c : BitVec 8),
    exec (.noteOn ch d e) s = exec (.noteOn ch' d e) s ∧
    exec (.noteOnVel0 ch d) s = exec (.noteOnVel0 ch' d) s ∧
    exec (.noteOff ch d e) s = exec (.noteOff ch' d e') s ∧
    exec (.polyPressure ch d e) s = exec (.polyPressure ch' d e') s ∧
    exec (.ccVolume ch e) s = exec (.ccVolume ch' e) s ∧
    exec (.ccPan ch e) s = exec (.ccPan ch' e) s ∧
    exec (.ccIgnored1 ch e) s = exec (.ccIgnored1 ch' e') s ∧
    exec (.ccIgnored64 ch e) s = exec (.ccIgnored64 ch' e') s ∧
    exec (.ccIgnored91 ch e) s = exec (.ccIgnored91 ch' e') s ∧
    exec (.ccIgnored92 ch e) s = exec (.ccIgnored92 ch' e') s ∧
    exec (.ccIgnored93 ch e) s = exec (.ccIgnored93 ch' e') s ∧
    exec (.ccIgnored94 ch e) s = exec (.ccIgnored94 ch' e') s ∧
    exec (.ccIgnored95 ch e) s = exec (.ccIgnored95 ch' e') s ∧
    exec (.ccUnhandled ch d e) s = exec (.ccUnhandled ch' d e') s ∧
    exec (.programChange ch d b) s = exec (.programChange ch' d b') s ∧
    exec (.pitchBend ch d e) s = exec (.pitchBend ch' d e) s ∧
    exec (.illegalNoStatus op3 ch b c) s = exec (.illegalNoStatus op3 ch' b c) s ∧
    exec (.illegalChannelPressure ch b c) s = exec (.illegalChannelPressure ch' b c) s ∧
    exec (.illegalSystem ch b c) s = exec (.illegalSystem ch' b c) s ∧
    exec (.illegalData1 op ch d b) s = exec (.illegalData1 op ch' d b) s ∧
    exec (.illegalData2 op ch d e) s = exec (.illegalData2 op ch' d e) s

/-! Errors and faults. -/

/-- 60_exceptions.md R84: in RUN, an ILLEGAL row, CC_UNHANDLED, and (once configured) a note command whose note has no
PianoKey set ERR_PROTO; strict also raises Fault(PROTO), hardened does nothing else. -/
def Obligations.ProtocolErrorsFollowThePolicy : Prop :=
  (∀ (s : State) (w : OpWord) (op3 : BitVec 3) (op ch : BitVec 4) (b c : BitVec 8) (d e : BitVec 7), s.mode = .run →
    exec (.illegalOpword w) s = .next (afterProtoError s) ∧
    exec (.illegalNoStatus op3 ch b c) s = .next (afterProtoError s) ∧
    exec (.illegalChannelPressure ch b c) s = .next (afterProtoError s) ∧
    exec (.illegalSystem ch b c) s = .next (afterProtoError s) ∧
    exec (.illegalData1 op ch d b) s = .next (afterProtoError s) ∧
    exec (.illegalData2 op ch d e) s = .next (afterProtoError s) ∧
    (d ∉ s.params.ignoredCc → exec (.ccUnhandled ch d e) s = .next (afterProtoError s))) ∧
  ∀ (s : State) (g : Settings) (ch : BitVec 4) (d e : BitVec 7), s.ready g → (d.toNat < 21 ∨ 108 < d.toNat) →
    exec (.noteOn ch d e) s = .next (afterProtoError s) ∧
    exec (.noteOff ch d e) s = .next (afterProtoError s) ∧
    exec (.noteOnVel0 ch d) s = .next (afterProtoError s) ∧
    exec (.polyPressure ch d e) s = .next (afterProtoError s)

/-- 60_exceptions.md R87: in RUN, with a configuration register UNSET, every CMD operation that is no protocol error by
its row, and PULL, raise Fault(CFG_UNSET) in both policies; so does a CFG_RD of an UNSET register. -/
def Obligations.UnsetConfigurationFaults : Prop :=
  ∀ (s : State) (r : CfgReg) (ch : BitVec 4) (d e : BitVec 7) (b : BitVec 8), s.mode = .run → s.cfg.read r = none →
    exec (.noteOn ch d e) s = .next { s with mode := .faulted, faultCause := 4 } ∧
    exec (.noteOnVel0 ch d) s = .next { s with mode := .faulted, faultCause := 4 } ∧
    exec (.noteOff ch d e) s = .next { s with mode := .faulted, faultCause := 4 } ∧
    exec (.polyPressure ch d e) s = .next { s with mode := .faulted, faultCause := 4 } ∧
    exec (.ccVolume ch e) s = .next { s with mode := .faulted, faultCause := 4 } ∧
    exec (.ccPan ch e) s = .next { s with mode := .faulted, faultCause := 4 } ∧
    exec (.programChange ch d b) s = .next { s with mode := .faulted, faultCause := 4 } ∧
    exec (.pitchBend ch d e) s = .next { s with mode := .faulted, faultCause := 4 } ∧
    exec .pull s = .next { s with mode := .faulted, faultCause := 4 } ∧
    ((∀ cc ∈ Config.defaultIgnoredCc, cc ∈ s.params.ignoredCc) →
      exec (.ccIgnored1 ch e) s = .next { s with mode := .faulted, faultCause := 4 } ∧
      exec (.ccIgnored64 ch e) s = .next { s with mode := .faulted, faultCause := 4 } ∧
      exec (.ccIgnored91 ch e) s = .next { s with mode := .faulted, faultCause := 4 } ∧
      exec (.ccIgnored92 ch e) s = .next { s with mode := .faulted, faultCause := 4 } ∧
      exec (.ccIgnored93 ch e) s = .next { s with mode := .faulted, faultCause := 4 } ∧
      exec (.ccIgnored94 ch e) s = .next { s with mode := .faulted, faultCause := 4 } ∧
      exec (.ccIgnored95 ch e) s = .next { s with mode := .faulted, faultCause := 4 }) ∧
    exec (.cfgRd (cfgAddress r)) s = .next { s with mode := .faulted, faultCause := 4 }

/-- 60_exceptions.md R89: a fault writes MODE, FAULT_CAUSE and the flag of its cause; every other part of the state is
as it was before the operation began, and nothing is output. -/
def Obligations.FaultsArePrecise : Prop :=
  ∀ (i : Instr) (s t : State), s.mode = .run → exec i s = .next t → t.mode = .faulted →
    ∃ c : Cause, t = { s with
      mode := .faulted
      faultCause := causeCode c
      errProto := s.errProto || c == .proto
      errCfg := s.errCfg || c == .cfg
      errNumeric := s.errNumeric || c == .numeric }

/-- 60_exceptions.md R83 to R88: which operations raise which cause, and in which state and policy. Which controllers
are outside the protocol, and which need the configuration, under an overridden IGNORED_CC is the model's choice
(log 11). -/
def Obligations.FaultCauseNamesItsSource : Prop :=
  ∀ (i : Instr) (s t : State), s.mode = .run → exec i s = .next t → t.mode = .faulted →
    (t.faultCause = 1 ∧ t.errProto = true ∧ s.params.strict = true ∧ protocolError s.params i = true) ∨
    (t.faultCause = 2 ∧ t.errCfg = true ∧ s.params.strict = true ∧ accessRefused s.params i) ∨
    (t.faultCause = 3 ∧ t.errNumeric = true ∧ s.params.strict = true ∧ i = .pull ∧ outputNotFinite s) ∨
    (t.faultCause = 4 ∧
      ∃ r, s.cfg.read r = none ∧ (needsConfiguration s.params i = true ∨ i = .cfgRd (cfgAddress r))) ∨
    (t.faultCause = 5 ∧ (i = .pull ∨ (∃ ch d e, i = .noteOn ch d e) ∨ (∃ ch d e, i = .noteOff ch d e) ∨
      ∃ ch d, i = .noteOnVel0 ch d))

/-- 60_exceptions.md R90: in FAULTED a CFG_RD of an address that holds a value and RESET have a step, every other
operation has none, and only RESET leaves FAULTED. "No step" is the model's `fault` outcome (log 7, 8). -/
def Obligations.FaultedHoldsEveryOperation : Prop :=
  ∀ (i : Instr) (s : State), s.mode = .faulted →
    (i ≠ .reset → (∀ a, i ≠ .cfgRd a) → exec i s = .fault .heldInFaulted) ∧
    (∀ a w, s.readReg (regAt a) = some w → exec (.cfgRd a) s = .next { s with observed := s.observed ++ [.word w] }) ∧
    (∀ a, s.readReg (regAt a) = none → ∃ f, exec (.cfgRd a) s = .fault f) ∧
    (∃ t, exec .reset s = .next t ∧ t.mode = .run ∧ t.faultCause = 0) ∧
    ∀ t, exec i s = .next t → t.mode = .faulted ∨ i = .reset

/-- 60_exceptions.md R90, 70_reset_and_hazards.md R103: a run that is in FAULTED stays there for as long as the host
presents no RESET. The host's words stand in a list of the state (log 2). -/
def Obligations.FaultedRunNeedsReset : Prop :=
  ∀ (k : Nat) (s t : State), s.mode = .faulted → (∀ w ∈ s.arriving, decode w ≠ .reset) →
    Host.Core.run Sys2Proof.core k s = .next t → t.mode = .faulted

/-- 90_conflicts.md C2, 60_exceptions.md R83: in a hardened engine only CFG_UNSET and ENV_PARAM fault. -/
def Obligations.HardenedFaultsOnlyOnConfiguration : Prop :=
  ∀ (i : Instr) (s t : State), s.mode = .run → s.params.strict = false → exec i s = .next t → t.mode = .faulted →
    t.faultCause = 4 ∨ t.faultCause = 5

/-- 10_state.md R13, 60_exceptions.md R84 to R86: the flags are sticky: only RESET and a write of 1 to the flag's bit of
STATUS clear one; only a protocol error sets ERR_PROTO, only a refused configuration access ERR_CFG, only a PULL with an
output that is not finite ERR_NUMERIC. Which controllers are protocol errors under an overridden IGNORED_CC is the
model's choice (log 11). -/
def Obligations.ErrorFlagsAreSticky : Prop :=
  ∀ (i : Instr) (s t : State), exec i s = .next t → i ≠ .reset →
    (s.errProto = true → t.errProto = true ∨ ∃ d, i = .cfgWr 0x10 d ∧ d.getLsbD 1 = true) ∧
    (s.errCfg = true → t.errCfg = true ∨ ∃ d, i = .cfgWr 0x10 d ∧ d.getLsbD 2 = true) ∧
    (s.errNumeric = true → t.errNumeric = true ∨ ∃ d, i = .cfgWr 0x10 d ∧ d.getLsbD 3 = true) ∧
    (t.errProto = true → s.errProto = true ∨ protocolError s.params i = true) ∧
    (t.errCfg = true → s.errCfg = true ∨ accessRefused s.params i) ∧
    (t.errNumeric = true → s.errNumeric = true ∨ (i = .pull ∧ outputNotFinite s))

/-! Reset. -/

/-- 70_reset_and_hazards.md R97: RESET has a step in every mode and writes every part of the engine's state; a
malformed RESET word is ILLEGAL_OPWORD. The model's own fields stay (log 16). -/
def Obligations.ResetRestoresConstruction : Prop :=
  decode 0x60000000000#43 = .reset ∧ decode 0x70000000000#43 = .illegalOpword 0x70000000000 ∧
  ∀ s : State, ∃ t : State, exec .reset s = .next t ∧
    t = { mode := .run, faultCause := 0, errProto := false, errCfg := false, errNumeric := false,
          cfg := { ctrl := none, peak := none, sustain := none, attackT := none, decayT := none, releaseT := none,
                   cutoff := none, resonance := none, volUp := none, volDown := none, panUp := none, panDown := none },
          vol := { value := 0x3F800000, target := 0x3F800000 }, pan := { value := 0x3F000000, target := 0x3F000000 },
          program := 0, bend := 0,
          voices := Vector.replicate 32
            { key := 0, vel := 0, elapsed := 0, phase := 0, inc := 0, env := .off, level := 0x38000100,
              mult := 0x3F800000, x1 := 0, x2 := 0, y1 := 0, y2 := 0, low := 0, band := 0 },
          params := s.params, arriving := s.arriving, observed := s.observed } ∧
    exec (.cfgRd 0x10) t = .next { t with observed := t.observed ++ [.word 0] }

/-- 70_reset_and_hazards.md R98, 95_test_vectors.md section 3.8: the machine starts in the state RESET leaves, and its
status registers read as listed. -/
def Obligations.StartStateReadsAsListed : Prop :=
  exec .reset State.reset = .next State.reset ∧
  State.reset.readReg (regAt 0x10) = some 0 ∧
  State.reset.readReg (regAt 0x12) = some 0 ∧
  State.reset.readReg (regAt 0x13) = some 0x3F800000 ∧
  State.reset.readReg (regAt 0x16) = some 0x3F000000 ∧
  State.reset.readReg (regAt 0x5F) = some 0 ∧
  State.reset.readReg (regAt 0x80) = some 0x38000100 ∧
  State.reset.readReg (regAt 0xBF) = some 0 ∧
  State.reset.readReg (regAt 0x0B) = none

/-! Configuration access. -/

/-- 44_config_access.md R78: in RUN, a legal write makes the register hold DATA and changes nothing else, and a CFG_RD
then answers DATA. 10_state.md R19: the codes by which a written CTRL selects waveform, topology and filter type. -/
def Obligations.ConfigWriteReadsBack : Prop :=
  ∀ (s : State) (r : CfgReg) (data : Word), s.mode = .run → legalValue s.params r data = true →
    ∃ cfg : ConfigRegs,
      exec (.cfgWr (cfgAddress r) data) s = .next { s with cfg := cfg } ∧
      cfg.read r = some data ∧ (∀ r', r' ≠ r → cfg.read r' = s.cfg.read r') ∧
      (r = .ctrl → ∃ c, cfg.ctrl = some c ∧
        data.extractLsb' 0 2 = (match c.waveform with
          | .sine => 0
          | .square => 1
          | .triangle => 2
          | .sawtooth => 3) ∧
        data.extractLsb' 2 1 = (match c.topo with
          | .biquad => 0
          | .stateVariable => 1) ∧
        data.extractLsb' 3 2 = (match c.filterType with
          | .lowPass => 0
          | .bandPass => 1
          | .highPass => 2)) ∧
      exec (.cfgRd (cfgAddress r)) { s with cfg := cfg } =
        .next { s with cfg := cfg, observed := s.observed ++ [.word data] }

/-- 44_config_access.md R80: in RUN, a write of a read-only register, of an illegal value, or of a 1 outside STATUS[3:1]
is refused. -/
def Obligations.RefusedWritesFollowThePolicy : Prop :=
  ∀ (s : State) (a : BitVec 8) (data : Word), s.mode = .run →
    ((0x11 ≤ a.toNat ∧ a.toNat ≤ 0x16) ∨ (0x40 ≤ a.toNat ∧ a.toNat ≤ 0xBF) ∨
      (∃ r, a = cfgAddress r ∧ legalValue s.params r data = false) ∨
      (a = 0x10 ∧ data &&& 0xFFFFFFF1 ≠ 0)) →
    exec (.cfgWr a data) s = .next (afterCfgRefused s)

/-- 10_state.md R21: the reserved addresses are 0x0C-0x0F, 0x17-0x3F and 0xC0-0xFF; in RUN a read or a write of one is
refused, and a refused read answers 0 where it does not fault. -/
def Obligations.ReservedAddressesAreRefused : Prop :=
  ∀ (s : State) (a : BitVec 8) (data : Word),
    (regAt a = .reserved ↔
      (0x0C ≤ a.toNat ∧ a.toNat ≤ 0x0F) ∨ (0x17 ≤ a.toNat ∧ a.toNat ≤ 0x3F) ∨ 0xC0 ≤ a.toNat) ∧
    (s.mode = .run → regAt a = .reserved →
      exec (.cfgWr a data) s = .next (afterCfgRefused s) ∧
      exec (.cfgRd a) s = .next (if s.params.strict then afterCfgRefused s
        else { s with errCfg := true, observed := s.observed ++ [.word 0] }))

/-- 44_config_access.md R81: in RUN, a write of STATUS with a 1 outside [3:1] is refused; any other clears the flags
whose bit is 1 and changes nothing else. -/
def Obligations.StatusWriteClearsFlags : Prop :=
  ∀ (s : State) (data : Word), s.mode = .run →
    exec (.cfgWr 0x10 data) s = .next (
      if data &&& 0xFFFFFFF1 ≠ 0 then afterCfgRefused s
      else { s with
        errProto := if data.getLsbD 1 then false else s.errProto
        errCfg := if data.getLsbD 2 then false else s.errCfg
        errNumeric := if data.getLsbD 3 then false else s.errNumeric })

/-- 44_config_access.md R79, 20_memory.md R27: in RUN, a CFG_RD of an address that holds a value answers it and has no
other effect, so a second one answers the same. -/
def Obligations.ConfigReadHasNoEffect : Prop :=
  ∀ (s : State) (a : BitVec 8) (w : Word), s.mode = .run → s.readReg (regAt a) = some w →
    exec (.cfgRd a) s = .next { s with observed := s.observed ++ [.word w] } ∧
    exec (.cfgRd a) { s with observed := s.observed ++ [.word w] } =
      .next { s with observed := s.observed ++ [.word w] ++ [.word w] }

/-- 10_state.md R14, R20: what every status register reads: the fields of the STATUS and VOICE_STAT words, the codes of
the envelope states, where the other bits are 0; PROGRAM, BEND sign-extended, both ramps' values and targets, and each
slot's elapsed count, level and phase. -/
def Obligations.StatusWordLayout : Prop :=
  ∀ (s : State) (i : Slot),
    ∃ st vs : Word, s.readReg (regAt 0x10) = some st ∧ s.readReg (regAt (BitVec.ofNat 8 (0x40 + i.val))) = some vs ∧
      st.getLsbD 0 = (s.mode == .faulted) ∧ st.getLsbD 1 = s.errProto ∧ st.getLsbD 2 = s.errCfg ∧
      st.getLsbD 3 = s.errNumeric ∧ st.extractLsb' 4 4 = s.faultCause ∧ st.extractLsb' 8 24 = 0 ∧
      vs.extractLsb' 0 7 = (s.voice i).key ∧ vs.extractLsb' 7 1 = 0 ∧
      vs.extractLsb' 8 3 = (match (s.voice i).env with
        | .off => 0
        | .attack => 1
        | .decay => 2
        | .sustain => 3
        | .release => 4) ∧
      vs.extractLsb' 11 5 = 0 ∧ vs.extractLsb' 16 7 = (s.voice i).vel ∧ vs.extractLsb' 23 9 = 0 ∧
      s.readReg (regAt 0x11) = some (s.program.zeroExtend 32) ∧
      s.readReg (regAt 0x12) = some (s.bend.signExtend 32) ∧
      s.readReg (regAt 0x13) = some s.vol.value ∧
      s.readReg (regAt 0x14) = some s.vol.target ∧
      s.readReg (regAt 0x15) = some s.pan.value ∧
      s.readReg (regAt 0x16) = some s.pan.target ∧
      s.readReg (regAt (BitVec.ofNat 8 (0x60 + i.val))) = some (s.voice i).elapsed ∧
      s.readReg (regAt (BitVec.ofNat 8 (0x80 + i.val))) = some (s.voice i).level ∧
      s.readReg (regAt (BitVec.ofNat 8 (0xA0 + i.val))) = some (s.voice i).phase

/-- 10_state.md R19, 93_implementation_defined.md I11, I12: the legal values of each register: CTRL with bits [31:5] 0
and a FILTER_TYPE other than 3; PEAK and SUSTAIN finite and above FLOOR; the times, CUTOFF and RESONANCE finite and
above 0.0, CUTOFF also below `f32(R) * 0.5`; the ramp multipliers in [0.0, 1.0], hence finite. -/
def Obligations.LegalValuesAreFinite : Prop :=
  ∀ (p : Params) (r : CfgReg) (data : Word),
    (legalValue p .ctrl data = true ↔ data.extractLsb' 5 27 = 0 ∧ data.extractLsb' 3 2 ≠ 3) ∧
    (r ≠ .ctrl → legalValue p r data = true → fFinite data = true) ∧
    (r = .peak ∨ r = .sustain → (legalValue p r data = true ↔ fFinite data = true ∧ fLt 0x38000100 data = true)) ∧
    (r = .attackT ∨ r = .decayT ∨ r = .releaseT ∨ r = .resonance →
      (legalValue p r data = true ↔ fFinite data = true ∧ fLt 0 data = true)) ∧
    (legalValue p .cutoff data = true ↔
      fFinite data = true ∧ fLt 0 data = true ∧ fLt data (fMul (fOfInt p.sampleRate) 0x3F000000) = true) ∧
    (r = .volUp ∨ r = .volDown ∨ r = .panUp ∨ r = .panDown →
      (legalValue p r data = true ↔ fLe 0 data = true ∧ fLe data 0x3F800000 = true))

/-- 70_reset_and_hazards.md R99: writing every configuration register with a legal value, in any order, makes the
engine ready, with what each register reads as the configuration its operations run with (10_state.md R19). -/
def Obligations.BootWritesMakeReady : Prop :=
  ∀ (s : State) (writes : List (CfgReg × Word)), s.mode = .run →
    (∀ rd ∈ writes, legalValue s.params rd.1 rd.2 = true) → (∀ r : CfgReg, ∃ d, (r, d) ∈ writes) →
    ∃ t g, afterWrites writes s = some t ∧ t.ready g ∧ t.cfg.ctrl = some g.ctrl ∧ t.cfg.read .peak = some g.peak ∧
      t.cfg.read .sustain = some g.sustain ∧ t.cfg.read .attackT = some g.attackT ∧
      t.cfg.read .decayT = some g.decayT ∧ t.cfg.read .releaseT = some g.releaseT ∧
      t.cfg.read .cutoff = some g.cutoff ∧ t.cfg.read .resonance = some g.resonance ∧
      t.cfg.read .volUp = some g.volUp ∧ t.cfg.read .volDown = some g.volDown ∧
      t.cfg.read .panUp = some g.panUp ∧ t.cfg.read .panDown = some g.panDown

/-! Commands. -/

/-- 40_channel_commands.md R50: CC_VOLUME sets `VOL.target` to `f32(val) / 127.0` and changes nothing else; 0 gives
+0.0, 127 gives 1.0, 100 gives 0x3F499326. -/
def Obligations.VolumeControllerSetsTarget : Prop :=
  decode 0x00000B00764#43 = .ccVolume 0 100 ∧
  controllerLevel 0 = 0 ∧ controllerLevel 127 = 0x3F800000 ∧ controllerLevel 100 = 0x3F499326 ∧
  ∀ (s : State) (g : Settings) (ch : BitVec 4) (val : BitVec 7), s.ready g →
    exec (.ccVolume ch val) s =
      .next { s with vol := { value := s.vol.value, target := fDiv (fOfInt val.toNat) 0x42FE0000 } }

/-- 40_channel_commands.md R51: CC_PAN sets `PAN.target` to `f32(val) / 127.0` and changes nothing else; 64 gives
0x3F010204. -/
def Obligations.PanControllerSetsTarget : Prop :=
  decode 0x00000B00A7F#43 = .ccPan 0 127 ∧
  controllerLevel 0 = 0 ∧ controllerLevel 64 = 0x3F010204 ∧ controllerLevel 127 = 0x3F800000 ∧
  ∀ (s : State) (g : Settings) (ch : BitVec 4) (val : BitVec 7), s.ready g →
    exec (.ccPan ch val) s =
      .next { s with pan := { value := s.pan.value, target := fDiv (fOfInt val.toNat) 0x42FE0000 } }

/-- 40_channel_commands.md R52: a controller on the allow-list changes nothing. -/
def Obligations.AllowListedControllersChangeNothing : Prop :=
  ∀ (s : State) (g : Settings) (ch : BitVec 4) (val : BitVec 7), s.ready g →
    (∀ cc ∈ Config.defaultIgnoredCc, cc ∈ s.params.ignoredCc) →
    exec (.ccIgnored1 ch val) s = .next s ∧ exec (.ccIgnored64 ch val) s = .next s ∧
    exec (.ccIgnored91 ch val) s = .next s ∧ exec (.ccIgnored92 ch val) s = .next s ∧
    exec (.ccIgnored93 ch val) s = .next s ∧ exec (.ccIgnored94 ch val) s = .next s ∧
    exec (.ccIgnored95 ch val) s = .next s

/-- 40_channel_commands.md R54: PROGRAM_CHANGE stores its number and changes nothing else, whatever its second byte. -/
def Obligations.ProgramChangeStoresNumber : Prop :=
  decode 0x00000C00500#43 = .programChange 0 5 0 ∧ decode 0x00000C08500#43 = .illegalData1 0xC 0 5 0 ∧
  ∀ (s : State) (g : Settings) (ch : BitVec 4) (prog : BitVec 7) (d2 : BitVec 8), s.ready g →
    exec (.programChange ch prog d2) s = .next { s with program := prog }

/-- 40_channel_commands.md R55, 30_encoding.md R37: PITCH_BEND stores the 14-bit value less 0x2000 and changes nothing
else; CFG_RD 0x12 reads it sign-extended. -/
def Obligations.PitchBendStoresOffset : Prop :=
  decode 0x00000E07F7F#43 = .pitchBend 0 127 127 ∧
  ∀ (s : State) (g : Settings) (ch : BitVec 4) (lsb msb : BitVec 7), s.ready g →
    ∃ b : BitVec 14, exec (.pitchBend ch lsb msb) s = .next { s with bend := b } ∧
      b.toInt = (msb.toNat * 128 + lsb.toNat : Int) - 8192 ∧
      ∃ w : Word, State.readReg { s with bend := b } (regAt 0x12) = some w ∧ w.toInt = b.toInt

/-- 40_channel_commands.md R49: POLY_PRESSURE of a note with a PianoKey changes nothing. -/
def Obligations.PolyPressureChangesNothing : Prop :=
  ∀ (s : State) (g : Settings) (ch : BitVec 4) (note pressure : BitVec 7), s.ready g →
    21 ≤ note.toNat → note.toNat ≤ 108 → exec (.polyPressure ch note pressure) s = .next s

/-- 40_channel_commands.md R46: the slot a note-on takes: the bound one; else the lowest off and unbound one; else the
lowest of those with the greatest elapsed count. -/
def Obligations.VoiceSelectionOrder : Prop :=
  ∀ (s : State) (pk : BitVec 7),
    ((∃ j, (s.voice j).key = pk) →
      (s.voice (selectSlot s pk)).key = pk ∧ ∀ j, j < selectSlot s pk → (s.voice j).key ≠ pk) ∧
    ((∀ j, (s.voice j).key ≠ pk) → (∃ j, (s.voice j).env = .off ∧ (s.voice j).key = 0) →
      ((s.voice (selectSlot s pk)).env = .off ∧ (s.voice (selectSlot s pk)).key = 0) ∧
        ∀ j, j < selectSlot s pk → ¬((s.voice j).env = .off ∧ (s.voice j).key = 0)) ∧
    ((∀ j, (s.voice j).key ≠ pk) → (∀ j, ¬((s.voice j).env = .off ∧ (s.voice j).key = 0)) →
      (∀ j, (s.voice j).elapsed ≤ (s.voice (selectSlot s pk)).elapsed) ∧
        ∀ j, j < selectSlot s pk → (s.voice j).elapsed < (s.voice (selectSlot s pk)).elapsed)

/-- 40_channel_commands.md R46, 42_envelope.md R64, 43_primitives.md R69: a note-on of a sounding voice under HOLD sets
key, velocity, increment and elapsed count of the chosen slot and changes nothing else. -/
def Obligations.RetriggerUnderHoldKeepsEnvelope : Prop :=
  ∀ (s : State) (g : Settings) (ch : BitVec 4) (note vel : BitVec 7), s.ready g →
    21 ≤ note.toNat → note.toNat ≤ 108 → s.params.retrigger = .hold →
    (s.voice (selectSlot s (note - 20))).env ≠ .off →
    exec (.noteOn ch note vel) s = .next (s.setVoice (selectSlot s (note - 20))
      { s.voice (selectSlot s (note - 20)) with
        key := note - 20
        vel := vel
        elapsed := 0
        inc := fDiv (fMul 0x43DC0000 (Config.exp2 (fDiv (fOfInt (((note - 20).toNat : Int) - 49)) 0x41400000)))
          (fOfInt s.params.sampleRate) })

/-- 40_channel_commands.md R46, 42_envelope.md R63, R64: a note-on of a silent voice, or under RESTART, starts the
attack at FLOOR with the multiplier of the ramp from FLOOR to PEAK; it raises Fault(ENV_PARAM) where SUSTAIN exceeds
PEAK or the multiplier is not finite and positive, and then no field of any voice changes. -/
def Obligations.NoteOnStartsTheAttack : Prop :=
  ∀ (s : State) (g : Settings) (ch : BitVec 4) (note vel : BitVec 7), s.ready g →
    21 ≤ note.toNat → note.toNat ≤ 108 →
    ((s.voice (selectSlot s (note - 20))).env = .off ∨ s.params.retrigger = .restart) →
    exec (.noteOn ch note vel) s = .next (
      let m := fAdd 0x3F800000 (fDiv (fSub (Config.ln g.peak) (Config.ln 0x38000100))
        (fMul g.attackT (fOfInt s.params.sampleRate)))
      if fLt g.peak g.sustain = false ∧ fFinite m = true ∧ fLt 0 m = true then
        s.setVoice (selectSlot s (note - 20))
          { s.voice (selectSlot s (note - 20)) with
            key := note - 20
            vel := vel
            elapsed := 0
            env := .attack
            level := 0x38000100
            mult := m
            inc := fDiv (fMul 0x43DC0000 (Config.exp2 (fDiv (fOfInt (((note - 20).toNat : Int) - 49)) 0x41400000)))
              (fOfInt s.params.sampleRate) }
      else { s with mode := .faulted, faultCause := 5 })

/-- 40_channel_commands.md R47, R48, 42_envelope.md R65: NOTE_OFF and NOTE_ON_VEL0 of a key bound to no voice, or to a
voice in release or off, change nothing. -/
def Obligations.NoteOffIsIdempotent : Prop :=
  ∀ (s : State) (g : Settings) (ch : BitVec 4) (note vel : BitVec 7), s.ready g →
    21 ≤ note.toNat → note.toNat ≤ 108 →
    (∀ i, (s.voice i).key = note - 20 → (s.voice i).env = .release ∨ (s.voice i).env = .off) →
    exec (.noteOff ch note vel) s = .next s ∧ exec (.noteOnVel0 ch note) s = .next s

/-- 40_channel_commands.md R47, R48, 42_envelope.md R63, R65: NOTE_OFF and NOTE_ON_VEL0 release the one voice bound to
the key when it is in attack, decay or sustain: the release multiplier is that of the ramp from SUSTAIN to FLOOR, the
level stays, and an invalid multiplier raises Fault(ENV_PARAM). -/
def Obligations.NoteOffReleasesTheBoundVoice : Prop :=
  ∀ (s : State) (g : Settings) (ch : BitVec 4) (note vel : BitVec 7) (i : Slot), s.ready g →
    21 ≤ note.toNat → note.toNat ≤ 108 → (s.voice i).key = note - 20 → (∀ j, (s.voice j).key = note - 20 → j = i) →
    ((s.voice i).env = .attack ∨ (s.voice i).env = .decay ∨ (s.voice i).env = .sustain) →
    exec (.noteOff ch note vel) s = exec (.noteOnVel0 ch note) s ∧
    exec (.noteOff ch note vel) s = .next (
      let m := fAdd 0x3F800000 (fDiv (fSub (Config.ln 0x38000100) (Config.ln g.sustain))
        (fMul g.releaseT (fOfInt s.params.sampleRate)))
      if fFinite m = true ∧ fLt 0 m = true then s.setVoice i { s.voice i with env := .release, mult := m }
      else { s with mode := .faulted, faultCause := 5 })

/-! PULL. -/

/-- 41_render.md R57, R58, 60_exceptions.md R86: when every voice's sample is computed without a fault, PULL advances
each voice by its own sample, adds the samples in ascending slot order from +0.0, pulls both ramps, ticks every elapsed
counter and outputs the panned sum; a sum that is not finite faults in strict mode and is silenced in hardened mode.
41_render.md R57, 60_exceptions.md R88, R91: when some voice's sample raises a fault, PULL faults with cause 5. -/
def Obligations.PullAdvancesEveryVoice : Prop :=
  (∀ (s : State) (g : Settings) (f : Slot → Voice × Word), s.ready g →
    (∀ i, voiceSample Config.numerics s.params g (s.voice i) = .ok (f i)) →
    exec .pull s = .next (
      let acc := slots.foldl (fun a i => fAdd a (f i).2) 0
      let vol := rampPull s.vol g.volUp g.volDown
      let pan := rampPull s.pan g.panUp g.panDown
      let l := fMul (fMul acc vol.value) (fSub 0x3F800000 pan.value)
      let r := fMul (fMul acc vol.value) pan.value
      let t : State := { s with voices := Vector.ofFn fun i => tickElapsed (f i).1, vol := vol, pan := pan }
      if fFinite l = true ∧ fFinite r = true then
        { t with observed := s.observed ++ [.frame l r (toS16 l) (toS16 r)] }
      else if s.params.strict then { s with errNumeric := true, mode := .faulted, faultCause := 3 }
      else { t with errNumeric := true, observed := s.observed ++ [.frame 0 0 0 0] })) ∧
  ∀ (s : State) (g : Settings), s.ready g →
    (∃ i c, voiceSample Config.numerics s.params g (s.voice i) = .error c) →
    exec .pull s = .next { s with mode := .faulted, faultCause := 5 }

/-- 41_render.md R57: with every voice off and the ramps at finite, unsigned values, PULL outputs silence, the ramps
advance and every elapsed counter ticks. -/
def Obligations.SilentPullOutputsZero : Prop :=
  ∀ (s : State) (g : Settings), s.ready g → (∀ i, (s.voice i).env = .off) →
    fFinite (rampPull s.vol g.volUp g.volDown).value = true → (rampPull s.vol g.volUp g.volDown).value.msb = false →
    (rampPull s.pan g.panUp g.panDown).value.msb = false →
    fLe (rampPull s.pan g.panUp g.panDown).value 0x3F800000 = true →
    exec .pull s = .next { s with
      voices := s.voices.map tickElapsed
      vol := rampPull s.vol g.volUp g.volDown
      pan := rampPull s.pan g.panUp g.panDown
      observed := s.observed ++ [.frame 0 0 0 0] }

/-- 41_render.md R61: a note-on that does not fault sets its slot's elapsed count to 0, after `k` pulls in a row that do
not fault a count is `k` more, saturating at 0xFFFFFFFF, and between them no operation but NOTE_ON, PULL and RESET
changes a count. -/
def Obligations.ElapsedCountsPulls : Prop :=
  (∀ (k : Nat) (s t : State), afterPulls k s = some t →
    ∀ i, (t.voice i).elapsed.toNat = min ((s.voice i).elapsed.toNat + k) 0xFFFFFFFF) ∧
  (∀ (s t : State) (g : Settings) (ch : BitVec 4) (note vel : BitVec 7), s.ready g → 21 ≤ note.toNat →
    note.toNat ≤ 108 → exec (.noteOn ch note vel) s = .next t → t.mode = .run →
    (t.voice (selectSlot s (note - 20))).elapsed = 0 ∧
      ∀ i, i ≠ selectSlot s (note - 20) → (t.voice i).elapsed = (s.voice i).elapsed) ∧
  ∀ (i : Instr) (s t : State), exec i s = .next t → i ≠ .pull → i ≠ .reset → (∀ ch d e, i ≠ .noteOn ch d e) →
    ∀ k, (t.voice k).elapsed = (s.voice k).elapsed

/-- 41_render.md R57, R58, 43_primitives.md R73: what a pull that does not fault leaves alone: everything but the
voices, the ramps' values, ERR_NUMERIC and the output; each voice's key, velocity and increment; a voice that is off,
but for its counter; and the state of the filter topology that is not selected. -/
def Obligations.PullFrame : Prop :=
  ∀ (s t : State) (g : Settings), s.ready g → exec .pull s = .next t → t.mode = .run →
    (t.faultCause = s.faultCause ∧ t.errProto = s.errProto ∧ t.errCfg = s.errCfg ∧ t.cfg = s.cfg ∧
      t.vol.target = s.vol.target ∧ t.pan.target = s.pan.target ∧ t.program = s.program ∧ t.bend = s.bend ∧
      t.params = s.params ∧ t.arriving = s.arriving) ∧
    ∀ i, (t.voice i).key = (s.voice i).key ∧ (t.voice i).vel = (s.voice i).vel ∧ (t.voice i).inc = (s.voice i).inc ∧
      ((s.voice i).env = .off → t.voice i = tickElapsed (s.voice i)) ∧
      (g.ctrl.topo = .biquad → (t.voice i).low = (s.voice i).low ∧ (t.voice i).band = (s.voice i).band) ∧
      (g.ctrl.topo = .stateVariable →
        (t.voice i).x1 = (s.voice i).x1 ∧ (t.voice i).x2 = (s.voice i).x2 ∧ (t.voice i).y1 = (s.voice i).y1 ∧
          (t.voice i).y2 = (s.voice i).y2)

/-- 41_render.md R58, 42_envelope.md R66: a voice whose envelope reaches off during its sample came from release,
answers +0.0 for that pull, and has its level pinned to FLOOR and its phase reset. -/
def Obligations.FallingSilentResetsThePhase : Prop :=
  ∀ (n : Numerics) (p : Params) (g : Settings) (v v' : Voice) (y : Word),
    v.env ≠ .off → voiceSample n p g v = .ok (v', y) → v'.env = .off →
    v.env = .release ∧ y = 0 ∧ v'.phase = 0 ∧ v'.level = Config.envFloor ∧
      fLe (fMul v.level v.mult) Config.envFloor = true

/-- 41_render.md R57, R58, 10_state.md R17, 40_channel_commands.md R46: PULL's outputs do not depend on the program and
bend registers, the flags, or any voice's key, velocity or elapsed count; nor do those of any later PULL up to the next
note-on or note-off, which reads keys and elapsed counts (R46, R48). -/
def Obligations.SoundIgnoresProgramBendVelocity : Prop :=
  (∀ (s t s' : State), s.soundsLike t → exec .pull s = .next s' →
    ∃ (t' : State) (out : List Output), exec .pull t = .next t' ∧ s'.soundsLike t' ∧
      s'.observed = s.observed ++ out ∧ t'.observed = t.observed ++ out) ∧
  ∀ (i : Instr) (s t s' : State), ¬playsNote i → s.soundsLike t → exec i s = .next s' →
    ∃ t' : State, exec i t = .next t' ∧ s'.soundsLike t'

/-- 41_render.md R59: the linear pan law; at 0.0 all of a finite `m` goes left, at 1.0 all goes right, at 0.5 each side
gets half. -/
def Obligations.PanLawIsLinear : Prop :=
  (∀ m p : Word, panSplit m p = (fMul m (fSub 0x3F800000 p), fMul m p)) ∧
  ∀ m : Word, fFinite m = true →
    (panSplit m 0).1 = m ∧ (panSplit m 0x3F800000).2 = m ∧
    (panSplit m 0x3F000000).1 = fMul m 0x3F000000 ∧ (panSplit m 0x3F000000).2 = fMul m 0x3F000000 ∧
    (∃ neg, floatValue (panSplit m 0).2 = .fin neg 0) ∧ (∃ neg, floatValue (panSplit m 0x3F800000).1 = .fin neg 0)

/-- 41_render.md R60: the 16-bit sample is the product with 32767 truncated and clamped to [-32768, 32767]; a product
that overflows saturates. -/
def Obligations.SampleConversionSaturates : Prop :=
  ∀ x : Word, fFinite x = true →
    (fFinite (fMul x 0x46FFFE00) = true →
      (toS16 x).toInt = max (-32768) (min 32767 (fTrunc (fMul x 0x46FFFE00)))) ∧
    (fMul x 0x46FFFE00 = 0x7F800000 → toS16 x = 32767) ∧
    (fMul x 0x46FFFE00 = 0xFF800000 → (toS16 x).toInt = -32768)

/-- 43_primitives.md R70: the four waveforms at every phase, and their values at phases 0.25, 0.5 and 0, for every choice
of the OPEN functions. -/
def Obligations.WaveformsAtListedPhases : Prop :=
  ∀ n : Numerics,
    (∀ ph : Word,
      oscOut n .sine ph = n.sin (fMul 0x40C90FDB ph) ∧
      oscOut n .square ph = (if fLt ph 0x3F000000 = true then 0x3F800000 else 0xBF800000) ∧
      oscOut n .triangle ph =
        (if fLt ph 0x3F000000 = true then fSub (fMul 0x40800000 ph) 0x3F800000
          else fSub 0x40400000 (fMul 0x40800000 ph)) ∧
      oscOut n .sawtooth ph = fSub (fMul 0x40000000 ph) 0x3F800000) ∧
    oscOut n .sine 0x3E800000 = n.sin 0x3FC90FDB ∧
    oscOut n .square 0x3E800000 = 0x3F800000 ∧ oscOut n .triangle 0x3E800000 = 0 ∧
    oscOut n .sawtooth 0x3E800000 = 0xBF000000 ∧
    oscOut n .square 0x3F000000 = 0xBF800000 ∧ oscOut n .triangle 0x3F000000 = 0x3F800000 ∧
    oscOut n .triangle 0 = 0xBF800000 ∧ oscOut n .sawtooth 0 = 0xBF800000

/-- 43_primitives.md R71, 10_state.md R15: a phase in [0, 1) advanced by an increment in [0, 1) stays in [0, 1). -/
def Obligations.PhaseStaysInTheUnitInterval : Prop :=
  ∀ phase inc : Word, inUnitPhase phase → inUnitPhase inc → inUnitPhase (advancePhase phase inc)

/-- 43_primitives.md R72: a ramp below its target takes the value `target - ((target - value) * UP)`, one above it the
same with DOWN, any other stays. For values, targets and multipliers in [0, 1], hence, it never passes its target, and a
multiplier of 0.0 jumps to the target. -/
def Obligations.RampNeverPassesItsTarget : Prop :=
  (∀ (r : Ramp) (up down : Word),
    (fLt r.value r.target = true →
      rampPull r up down = { value := fSub r.target (fMul (fSub r.target r.value) up), target := r.target }) ∧
    (fLt r.target r.value = true →
      rampPull r up down = { value := fSub r.target (fMul (fSub r.target r.value) down), target := r.target }) ∧
    (fLt r.value r.target = false → fLt r.target r.value = false → rampPull r up down = r)) ∧
  ∀ (r : Ramp) (up down : Word), zeroToOne r.value = true → zeroToOne r.target = true →
    zeroToOne up = true → zeroToOne down = true →
    (rampPull r up down).target = r.target ∧
    (fLt r.value r.target = true → fLe (rampPull r up down).value r.target = true) ∧
    (fLt r.target r.value = true → fLe r.target (rampPull r up down).value = true) ∧
    (fLt r.value r.target = false → fLt r.target r.value = false → rampPull r up down = r) ∧
    (fLt r.value r.target = true → up = 0 →
      fLe (rampPull r up down).value r.target = true ∧ fLe r.target (rampPull r up down).value = true) ∧
    (fLt r.target r.value = true → down = 0 →
      fLe (rampPull r up down).value r.target = true ∧ fLe r.target (rampPull r up down).value = true)

/-- 43_primitives.md R74, R76, 95_test_vectors.md section 3.6: a first input of 1.0 from a filter at rest, for finite
coefficients that are not zeros: the biquad answers `a0`; the state-variable filter answers 0 (low-pass), `f1`
(band-pass) or 1.0 (high-pass). -/
def Obligations.FilterFirstStepFromRest : Prop :=
  ∀ (n : Numerics) (p : Params) (g : Settings) (v : Voice),
    v.x1 = 0 → v.x2 = 0 → v.y1 = 0 → v.y2 = 0 → v.low = 0 → v.band = 0 →
    (∀ c : BqCoeffs, n.bqCoeffs g.ctrl.filterType g.cutoff (fOfInt p.sampleRate) = c →
      fFinite c.a0 = true → c.a0 &&& 0x7FFFFFFF ≠ 0 → fFinite c.a1 = true → fFinite c.a2 = true →
      fFinite c.b1 = true → fFinite c.b2 = true → g.ctrl.topo = .biquad →
      filterStep n p g v 0x3F800000 = ({ v with x1 := 0x3F800000, y1 := c.a0 }, c.a0)) ∧
    (∀ f1 q : Word, n.svfF g.cutoff (fOfInt p.sampleRate) = f1 → n.svfQ g.resonance = q →
      fFinite f1 = true → f1 &&& 0x7FFFFFFF ≠ 0 → fFinite q = true → g.ctrl.topo = .stateVariable →
      filterStep n p g v 0x3F800000 =
        ({ v with low := 0, band := f1 },
          match g.ctrl.filterType with
          | .lowPass => 0
          | .bandPass => f1
          | .highPass => 0x3F800000))

/-- 43_primitives.md R73, R74, R76: the step of each filter for any input and any state: the output and the elements it
writes; every other field of the voice stays. -/
def Obligations.FilterStepIsTheRecurrence : Prop :=
  ∀ (n : Numerics) (p : Params) (g : Settings) (v : Voice) (x : Word),
    (∀ a0 a1 a2 b1 b2 : Word, g.ctrl.topo = .biquad →
      n.bqCoeffs g.ctrl.filterType g.cutoff (fOfInt p.sampleRate) = ⟨a0, a1, a2, b1, b2⟩ →
      filterStep n p g v x =
        (let y := fSub (fSub (fAdd (fAdd (fMul a0 x) (fMul a1 v.x1)) (fMul a2 v.x2)) (fMul b1 v.y1)) (fMul b2 v.y2)
        ({ v with x1 := x, x2 := v.x1, y1 := y, y2 := v.y1 }, y))) ∧
    (∀ f1 q : Word, g.ctrl.topo = .stateVariable →
      n.svfF g.cutoff (fOfInt p.sampleRate) = f1 → n.svfQ g.resonance = q →
      filterStep n p g v x =
        (let low := fAdd v.low (fMul f1 v.band)
        let high := fSub (fSub x low) (fMul q v.band)
        let band := fAdd v.band (fMul f1 high)
        ({ v with low := low, band := band },
          match g.ctrl.filterType with
          | .lowPass => low
          | .bandPass => band
          | .highPass => high)))

/-- 41_render.md R58, 42_envelope.md R66: the sample of a sounding voice: the waveform at the old phase, the phase
advanced, the filter, then the envelope: multiply, at most one transition, and the filter's output times the new level.
The attack ends clamped to PEAK with the multiplier of the ramp from PEAK to SUSTAIN, or raises ENV_PARAM; the decay ends
unclamped with multiplier 1.0; a release that ends answers +0.0. -/
def Obligations.SoundingVoiceSample : Prop :=
  ∀ (n : Numerics) (p : Params) (g : Settings) (v u : Voice) (y : Word),
    filterStep n p g { v with phase := advancePhase v.phase v.inc } (oscOut n g.ctrl.waveform v.phase) = (u, y) →
    let level := fMul v.level v.mult
    let md := fAdd 0x3F800000 (fDiv (fSub (n.ln g.sustain) (n.ln g.peak)) (fMul g.decayT (fOfInt p.sampleRate)))
    (v.env = .attack → fLe g.peak level = false →
      voiceSample n p g v = .ok ({ u with level := level }, fMul y level)) ∧
    (v.env = .attack → fLe g.peak level = true →
      voiceSample n p g v =
        if fLt g.peak g.sustain = false ∧ fFinite md = true ∧ fLt 0 md = true ∧
            fLt (fMul g.sustain md) 0x38000100 = false then
          .ok ({ u with level := g.peak, mult := md, env := .decay }, fMul y g.peak)
        else .error .envParam) ∧
    (v.env = .decay →
      voiceSample n p g v =
        .ok (if fLe level g.sustain then { u with level := level, env := .sustain, mult := 0x3F800000 }
          else { u with level := level }, fMul y level)) ∧
    (v.env = .sustain → voiceSample n p g v = .ok (u, fMul y v.level)) ∧
    (v.env = .release →
      voiceSample n p g v =
        .ok (if fLe level 0x38000100 then ({ u with level := 0x38000100, env := .off, phase := 0 }, 0)
          else ({ u with level := level }, fMul y level)))

/-- 00_scope.md R7: each result of `+`, `-`, `*` and `/` on finite operands (a divisor other than zero) is the exact
result rounded to nearest, the even one of two equally near, and past the largest finite value an infinity; with the
signs of zero results. -/
def Obligations.ArithmeticRoundsToNearestEven : Prop :=
  ∀ (x y : Word) (a b : Bool) (m n : Nat), floatValue x = .fin a m → floatValue y = .fin b n →
    roundedNearest (fAdd x y) (signedUnits a m + signedUnits b n) 1 ∧
    roundedNearest (fSub x y) (signedUnits a m - signedUnits b n) 1 ∧
    roundedNearest (fMul x y) (signedUnits a m * signedUnits b n) (2 ^ 149) ∧
    (n ≠ 0 → roundedNearest (fDiv x y) (signedUnits (a ^^ b) (m * 2 ^ 149)) n) ∧
    (signedUnits a m + signedUnits b n = 0 → fAdd x y = if a && b then 0x80000000 else 0) ∧
    (signedUnits a m - signedUnits b n = 0 → fSub x y = if a && !b then 0x80000000 else 0) ∧
    (fMul x y).msb = (a ^^ b) ∧
    (n ≠ 0 → (fDiv x y).msb = (a ^^ b))

/-- 00_scope.md R7: the operations on NaN, infinite and zero operands. Which NaN results is left open (log 4). -/
def Obligations.ArithmeticOfSpecialOperands : Prop :=
  ∀ (x y : Word) (a b : Bool) (m n : Nat),
    (floatValue x = .nan ∨ floatValue y = .nan →
      floatValue (fAdd x y) = .nan ∧ floatValue (fSub x y) = .nan ∧ floatValue (fMul x y) = .nan ∧
        floatValue (fDiv x y) = .nan) ∧
    (floatValue x = .inf a → floatValue y = .inf b →
      floatValue (fAdd x y) = (if a = b then .inf a else .nan) ∧
      floatValue (fSub x y) = (if a = b then .nan else .inf a) ∧
      floatValue (fMul x y) = .inf (a ^^ b) ∧ floatValue (fDiv x y) = .nan) ∧
    (floatValue x = .inf a → floatValue y = .fin b n →
      floatValue (fAdd x y) = .inf a ∧ floatValue (fSub x y) = .inf a ∧
      floatValue (fMul x y) = (if n = 0 then .nan else .inf (a ^^ b)) ∧ floatValue (fDiv x y) = .inf (a ^^ b)) ∧
    (floatValue x = .fin a m → floatValue y = .inf b →
      floatValue (fAdd x y) = .inf b ∧ floatValue (fSub x y) = .inf (!b) ∧
      floatValue (fMul x y) = (if m = 0 then .nan else .inf (a ^^ b)) ∧ floatValue (fDiv x y) = .fin (a ^^ b) 0) ∧
    (floatValue x = .fin a m → floatValue y = .fin b 0 →
      floatValue (fDiv x y) = if m = 0 then .nan else .inf (a ^^ b))

/-! The envelope. -/

/-- 42_envelope.md R62: the envelope transitions of every operation are those of the table; RESET puts every envelope
to off. -/
def Obligations.EnvelopeTransitionsAreTheTable : Prop :=
  ∀ (i : Instr) (s t : State) (k : Slot), exec i s = .next t →
    match i with
    | .noteOn _ _ _ => envMove s.params .keyOn (s.voice k).env (t.voice k).env = true
    | .noteOff _ _ _ => envMove s.params .keyOff (s.voice k).env (t.voice k).env = true
    | .noteOnVel0 _ _ => envMove s.params .keyOff (s.voice k).env (t.voice k).env = true
    | .pull => envMove s.params .envStep (s.voice k).env (t.voice k).env = true
    | .reset => (t.voice k).env = .off
    | _ => (t.voice k).env = (s.voice k).env

/-- 42_envelope.md R63: a ramp multiplier that is finite and positive is answered, and for any other Fault(ENV_PARAM) is
raised in its place. -/
def Obligations.RampMultiplierIsPositive : Prop :=
  ∀ (n : Numerics) (p : Params) (start stop time : Word),
    (∀ m, rampMult n p start stop time = .ok m →
      fFinite m = true ∧ fLt 0 m = true ∧
        m = fAdd 0x3F800000 (fDiv (fSub (n.ln stop) (n.ln start)) (fMul time (fOfInt p.sampleRate)))) ∧
    (∀ c, rampMult n p start stop time = .error c → c = .envParam) ∧
    ∀ m, m = fAdd 0x3F800000 (fDiv (fSub (n.ln stop) (n.ln start)) (fMul time (fOfInt p.sampleRate))) →
      fFinite m = true → fLt 0 m = true → rampMult n p start stop time = .ok m

/-- 10_state.md R15, 90_conflicts.md C5, C6: while the configuration stands, key-on, key-off and the envelope step keep
the level of a sounding voice in [FLOOR, PEAK], for every LN that keeps order above 0.0. -/
def Obligations.EnvelopeLevelStaysInRange : Prop :=
  ∀ (n : Numerics) (p : Params) (g : Settings) (v v' : Voice), lnKeepsOrder n → envelopeLegal p g →
    envelopeKept g v →
    (envKeyOn n p g v = .ok v' ∨ envKeyOff n p g v = .ok v' ∨ envAdvance n p g v = .ok v') →
    envelopeKept g v' ∧ levelInRange g v'

/-! The whole machine. -/

/-- 10_state.md R12, R14, R15, R19; 60_exceptions.md R83: every step keeps the invariant: the cause matches the mode,
no two voices share a bound key, every configuration register is UNSET or legal. -/
def Obligations.EveryStepKeepsTheInvariant : Prop :=
  ∀ s t : State, s.wellKept → step s = .next t → t.wellKept

/-- 10_state.md R22: the invariant holds right after reset. -/
def Obligations.ResetStateIsWellKept : Prop := State.reset.wellKept

/-- 10_state.md R10, R12 to R14, R16, R17, R19, 40_channel_commands.md R45: each part of the state is written only by the
operations whose rules write it; MODE and FAULT_CAUSE only by raising a fault; ERR_PROTO only by a protocol error
(60_exceptions.md R84), where which controllers are one under an overridden IGNORED_CC is the model's choice (log 11), or
by a write of STATUS. RESET writes every part (`ResetRestoresConstruction`). -/
def Obligations.StateIsWrittenOnlyByItsOwners : Prop :=
  ∀ (i : Instr) (s t : State), exec i s = .next t → i ≠ .reset →
    t.params = s.params ∧ t.arriving = s.arriving ∧
    (i ≠ .pull → (∀ a, i ≠ .cfgRd a) → t.observed = s.observed) ∧
    ((t.mode = s.mode ∧ t.faultCause = s.faultCause) ∨
      (s.mode = .run ∧ t.mode = .faulted ∧ ∃ c : Cause, t.faultCause = causeCode c)) ∧
    (t.errProto ≠ s.errProto → protocolError s.params i = true ∨ ∃ d, i = .cfgWr 0x10 d) ∧
    (t.errCfg ≠ s.errCfg → (∃ a d, i = .cfgWr a d) ∨ ∃ a, i = .cfgRd a) ∧
    (t.errNumeric ≠ s.errNumeric → i = .pull ∨ ∃ d, i = .cfgWr 0x10 d) ∧
    ((∀ a d, i ≠ .cfgWr a d) → t.cfg = s.cfg) ∧
    ((∀ ch p d, i ≠ .programChange ch p d) → t.program = s.program) ∧
    ((∀ ch l m, i ≠ .pitchBend ch l m) → t.bend = s.bend) ∧
    ((∀ ch v, i ≠ .ccVolume ch v) → t.vol.target = s.vol.target) ∧
    ((∀ ch v, i ≠ .ccPan ch v) → t.pan.target = s.pan.target) ∧
    (i ≠ .pull → t.vol.value = s.vol.value ∧ t.pan.value = s.pan.value) ∧
    (i ≠ .pull → (∀ ch d e, i ≠ .noteOn ch d e) → (∀ ch d e, i ≠ .noteOff ch d e) → (∀ ch d, i ≠ .noteOnVel0 ch d) →
      t.voices = s.voices)

/-- 70_reset_and_hazards.md R103, 40_channel_commands.md R45: the host observes at most one PULL output per PULL and one
word per CFG_RD, and nothing of any other operation. That what it observes stands in a list of the state is the model's
choice (log 3). -/
def Obligations.OutputsComeOnlyFromPullAndRead : Prop :=
  ∀ (i : Instr) (s t : State), exec i s = .next t →
    t.observed = s.observed ∨
    (i = .pull ∧ ∃ l r a b, t.observed = s.observed ++ [.frame l r a b]) ∨
    ((∃ a, i = .cfgRd a) ∧ ∃ w, t.observed = s.observed ++ [.word w])
end

