-- ==== Sys2Proof/Laws/Registers.lean ====
section
/-! SUPPORT. The configuration registers: what a write makes a read answer, and the addresses (10_state.md R19). -/

namespace Sys2Proof.Machine

/-- A legal `CTRL` value reads back as written (10_state.md R19). -/
theorem ctrlWord_of_ctrlOf {d : Word} {c : Ctrl} (h : ctrlOf d = some c) : ctrlWord c = d := by
  unfold ctrlOf at h
  split at h
  next h0 =>
    have hd : d = 0#27 ++ d.extractLsb' 3 2 ++ d.extractLsb' 2 1 ++ d.extractLsb' 0 2 := by
      rw [← h0]; ext i hi; simp; grind
    have hb : d.getLsbD 2 = (d.extractLsb' 2 1).getLsbD 0 := by simp
    rw [hb] at h
    generalize d.extractLsb' 3 2 = a at *
    generalize d.extractLsb' 2 1 = b at *
    generalize d.extractLsb' 0 2 = e at *
    subst hd
    simp [Option.map_eq_some_iff] at h
    obtain ⟨t, h1, rfl⟩ := h
    revert t; revert a b e; decide
  · cases h

/-- A legal write reads back (44_config_access.md R78). -/
theorem read_write_self {p} {c : ConfigRegs} {r : CfgReg} {d : Word} (hl : legalValue p r d = true) :
    (c.write r d).read r = some d := by
  cases r <;> simp [ConfigRegs.write, ConfigRegs.read]
  simp [legalValue, Option.isSome_iff_exists] at hl
  obtain ⟨c, hc⟩ := hl
  exact ⟨c, hc, ctrlWord_of_ctrlOf hc⟩

/-- A write leaves every other register alone (44_config_access.md R78). -/
theorem read_write_other {c : ConfigRegs} {r r' : CfgReg} {d : Word} (h : r' ≠ r) :
    (c.write r d).read r' = c.read r' := by
  cases r <;> cases r' <;> first | exact absurd rfl h | rfl

/-- Each configuration register has one address (10_state.md R19). -/
theorem eq_cfgAddress_of_regAt {a : BitVec 8} {r} (h : regAt a = .cfg r) : a = cfgAddress r := by
  revert h; cases r <;> revert a <;> decide

/-- Which bits of a `STATUS` write are refused (44_config_access.md R81). -/
theorem statusWriteRefused_iff (data : Word) : statusWriteRefused data = true ↔ data &&& 0xFFFFFFF1 ≠ 0 := by
  rw [← not_iff_not]
  simp [statusWriteRefused]
  constructor
  · rintro ⟨h1, h2⟩
    ext i hi
    have := congrArg (fun x => x.getLsbD (i-4)) h1
    simp at this
    have h4 : (i < 4 ∨ 4 ≤ i) := by omega
    rcases h4 with h4 | h4
    · interval_cases i <;> simp_all
    · have := this (by omega)
      rw [show 4 + (i-4) = i by omega] at this
      simp [← BitVec.getLsbD_eq_getElem, this]
  · intro h
    constructor
    · ext i hi
      have := congrArg (fun x => x.getLsbD (i+4)) h
      have h5 : (0xFFFFFFF1#32).getLsbD (i+4) = true := by interval_cases i <;> rfl
      simp [h5] at this
      simp [Nat.add_comm 4 i, this]
    · have := congrArg (fun x => x.getLsbD 0) h
      simpa using this

/-- `STATUS` has one address (10_state.md R20). -/
theorem eq_status_of_regAt {a : BitVec 8} (h : regAt a = .status) : a = 0x10 := by
  revert h; revert a; decide

end Sys2Proof.Machine
end

