-- ==== Sys2Proof/Laws/State.lean ====
section
/-! SUPPORT. One lemma per field per named update of the state, so that no later proof unfolds an update. -/

namespace Sys2Proof.Machine

@[simp] theorem State.emit_mode (o : Output) (s : State) : (s.emit o).mode = s.mode := rfl
@[simp] theorem State.emit_faultCause (o : Output) (s : State) : (s.emit o).faultCause = s.faultCause := rfl
@[simp] theorem State.emit_errProto (o : Output) (s : State) : (s.emit o).errProto = s.errProto := rfl
@[simp] theorem State.emit_errCfg (o : Output) (s : State) : (s.emit o).errCfg = s.errCfg := rfl
@[simp] theorem State.emit_errNumeric (o : Output) (s : State) : (s.emit o).errNumeric = s.errNumeric := rfl
@[simp] theorem State.emit_cfg (o : Output) (s : State) : (s.emit o).cfg = s.cfg := rfl
@[simp] theorem State.emit_vol (o : Output) (s : State) : (s.emit o).vol = s.vol := rfl
@[simp] theorem State.emit_pan (o : Output) (s : State) : (s.emit o).pan = s.pan := rfl
@[simp] theorem State.emit_program (o : Output) (s : State) : (s.emit o).program = s.program := rfl
@[simp] theorem State.emit_bend (o : Output) (s : State) : (s.emit o).bend = s.bend := rfl
@[simp] theorem State.emit_voices (o : Output) (s : State) : (s.emit o).voices = s.voices := rfl
@[simp] theorem State.emit_params (o : Output) (s : State) : (s.emit o).params = s.params := rfl
@[simp] theorem State.emit_arriving (o : Output) (s : State) : (s.emit o).arriving = s.arriving := rfl
@[simp] theorem State.emit_observed (o : Output) (s : State) : (s.emit o).observed = s.observed ++ [o] := rfl

@[simp] theorem State.setVoice_mode (s : State) (i : Slot) (v : Voice) : (s.setVoice i v).mode = s.mode := rfl
@[simp] theorem State.setVoice_faultCause (s : State) (i : Slot) (v : Voice) : (s.setVoice i v).faultCause = s.faultCause := rfl
@[simp] theorem State.setVoice_errProto (s : State) (i : Slot) (v : Voice) : (s.setVoice i v).errProto = s.errProto := rfl
@[simp] theorem State.setVoice_errCfg (s : State) (i : Slot) (v : Voice) : (s.setVoice i v).errCfg = s.errCfg := rfl
@[simp] theorem State.setVoice_errNumeric (s : State) (i : Slot) (v : Voice) : (s.setVoice i v).errNumeric = s.errNumeric := rfl
@[simp] theorem State.setVoice_cfg (s : State) (i : Slot) (v : Voice) : (s.setVoice i v).cfg = s.cfg := rfl
@[simp] theorem State.setVoice_vol (s : State) (i : Slot) (v : Voice) : (s.setVoice i v).vol = s.vol := rfl
@[simp] theorem State.setVoice_pan (s : State) (i : Slot) (v : Voice) : (s.setVoice i v).pan = s.pan := rfl
@[simp] theorem State.setVoice_program (s : State) (i : Slot) (v : Voice) : (s.setVoice i v).program = s.program := rfl
@[simp] theorem State.setVoice_bend (s : State) (i : Slot) (v : Voice) : (s.setVoice i v).bend = s.bend := rfl
@[simp] theorem State.setVoice_voices (s : State) (i : Slot) (v : Voice) : (s.setVoice i v).voices = s.voices.set i.val v := rfl
@[simp] theorem State.setVoice_params (s : State) (i : Slot) (v : Voice) : (s.setVoice i v).params = s.params := rfl
@[simp] theorem State.setVoice_arriving (s : State) (i : Slot) (v : Voice) : (s.setVoice i v).arriving = s.arriving := rfl
@[simp] theorem State.setVoice_observed (s : State) (i : Slot) (v : Voice) : (s.setVoice i v).observed = s.observed := rfl

@[simp] theorem State.present_mode (s : State) (w : OpWord) : (s.present w).mode = s.mode := rfl
@[simp] theorem State.present_faultCause (s : State) (w : OpWord) : (s.present w).faultCause = s.faultCause := rfl
@[simp] theorem State.present_errProto (s : State) (w : OpWord) : (s.present w).errProto = s.errProto := rfl
@[simp] theorem State.present_errCfg (s : State) (w : OpWord) : (s.present w).errCfg = s.errCfg := rfl
@[simp] theorem State.present_errNumeric (s : State) (w : OpWord) : (s.present w).errNumeric = s.errNumeric := rfl
@[simp] theorem State.present_cfg (s : State) (w : OpWord) : (s.present w).cfg = s.cfg := rfl
@[simp] theorem State.present_vol (s : State) (w : OpWord) : (s.present w).vol = s.vol := rfl
@[simp] theorem State.present_pan (s : State) (w : OpWord) : (s.present w).pan = s.pan := rfl
@[simp] theorem State.present_program (s : State) (w : OpWord) : (s.present w).program = s.program := rfl
@[simp] theorem State.present_bend (s : State) (w : OpWord) : (s.present w).bend = s.bend := rfl
@[simp] theorem State.present_voices (s : State) (w : OpWord) : (s.present w).voices = s.voices := rfl
@[simp] theorem State.present_params (s : State) (w : OpWord) : (s.present w).params = s.params := rfl
@[simp] theorem State.present_arriving (s : State) (w : OpWord) : (s.present w).arriving = w :: s.arriving := rfl
@[simp] theorem State.present_observed (s : State) (w : OpWord) : (s.present w).observed = s.observed := rfl

@[simp] theorem State.clearFlags_mode (d : Word) (s : State) : (s.clearFlags d).mode = s.mode := rfl
@[simp] theorem State.clearFlags_faultCause (d : Word) (s : State) : (s.clearFlags d).faultCause = s.faultCause := rfl
@[simp] theorem State.clearFlags_errProto (d : Word) (s : State) : (s.clearFlags d).errProto = (s.errProto && !d.getLsbD 1) := rfl
@[simp] theorem State.clearFlags_errCfg (d : Word) (s : State) : (s.clearFlags d).errCfg = (s.errCfg && !d.getLsbD 2) := rfl
@[simp] theorem State.clearFlags_errNumeric (d : Word) (s : State) : (s.clearFlags d).errNumeric = (s.errNumeric && !d.getLsbD 3) := rfl
@[simp] theorem State.clearFlags_cfg (d : Word) (s : State) : (s.clearFlags d).cfg = s.cfg := rfl
@[simp] theorem State.clearFlags_vol (d : Word) (s : State) : (s.clearFlags d).vol = s.vol := rfl
@[simp] theorem State.clearFlags_pan (d : Word) (s : State) : (s.clearFlags d).pan = s.pan := rfl
@[simp] theorem State.clearFlags_program (d : Word) (s : State) : (s.clearFlags d).program = s.program := rfl
@[simp] theorem State.clearFlags_bend (d : Word) (s : State) : (s.clearFlags d).bend = s.bend := rfl
@[simp] theorem State.clearFlags_voices (d : Word) (s : State) : (s.clearFlags d).voices = s.voices := rfl
@[simp] theorem State.clearFlags_params (d : Word) (s : State) : (s.clearFlags d).params = s.params := rfl
@[simp] theorem State.clearFlags_arriving (d : Word) (s : State) : (s.clearFlags d).arriving = s.arriving := rfl
@[simp] theorem State.clearFlags_observed (d : Word) (s : State) : (s.clearFlags d).observed = s.observed := rfl

@[simp] theorem State.flagged_mode (c : Cause) (s : State) : (s.flagged c).mode = s.mode := by cases c <;> simp [State.flagged]
@[simp] theorem State.flagged_faultCause (c : Cause) (s : State) : (s.flagged c).faultCause = s.faultCause := by cases c <;> simp [State.flagged]
@[simp] theorem State.flagged_errProto (c : Cause) (s : State) : (s.flagged c).errProto = (s.errProto || c == .proto) := by cases c <;> simp [State.flagged]
@[simp] theorem State.flagged_errCfg (c : Cause) (s : State) : (s.flagged c).errCfg = (s.errCfg || c == .cfg) := by cases c <;> simp [State.flagged]
@[simp] theorem State.flagged_errNumeric (c : Cause) (s : State) : (s.flagged c).errNumeric = (s.errNumeric || c == .numeric) := by cases c <;> simp [State.flagged]
@[simp] theorem State.flagged_cfg (c : Cause) (s : State) : (s.flagged c).cfg = s.cfg := by cases c <;> simp [State.flagged]
@[simp] theorem State.flagged_vol (c : Cause) (s : State) : (s.flagged c).vol = s.vol := by cases c <;> simp [State.flagged]
@[simp] theorem State.flagged_pan (c : Cause) (s : State) : (s.flagged c).pan = s.pan := by cases c <;> simp [State.flagged]
@[simp] theorem State.flagged_program (c : Cause) (s : State) : (s.flagged c).program = s.program := by cases c <;> simp [State.flagged]
@[simp] theorem State.flagged_bend (c : Cause) (s : State) : (s.flagged c).bend = s.bend := by cases c <;> simp [State.flagged]
@[simp] theorem State.flagged_voices (c : Cause) (s : State) : (s.flagged c).voices = s.voices := by cases c <;> simp [State.flagged]
@[simp] theorem State.flagged_params (c : Cause) (s : State) : (s.flagged c).params = s.params := by cases c <;> simp [State.flagged]
@[simp] theorem State.flagged_arriving (c : Cause) (s : State) : (s.flagged c).arriving = s.arriving := by cases c <;> simp [State.flagged]
@[simp] theorem State.flagged_observed (c : Cause) (s : State) : (s.flagged c).observed = s.observed := by cases c <;> simp [State.flagged]

@[simp] theorem State.takeFault_mode (c : Cause) (s : State) : (s.takeFault c).mode = .faulted := by simp [State.takeFault]
@[simp] theorem State.takeFault_faultCause (c : Cause) (s : State) : (s.takeFault c).faultCause = causeCode c := by simp [State.takeFault]
@[simp] theorem State.takeFault_errProto (c : Cause) (s : State) : (s.takeFault c).errProto = (s.errProto || c == .proto) := by simp [State.takeFault]
@[simp] theorem State.takeFault_errCfg (c : Cause) (s : State) : (s.takeFault c).errCfg = (s.errCfg || c == .cfg) := by simp [State.takeFault]
@[simp] theorem State.takeFault_errNumeric (c : Cause) (s : State) : (s.takeFault c).errNumeric = (s.errNumeric || c == .numeric) := by simp [State.takeFault]
@[simp] theorem State.takeFault_cfg (c : Cause) (s : State) : (s.takeFault c).cfg = s.cfg := by simp [State.takeFault]
@[simp] theorem State.takeFault_vol (c : Cause) (s : State) : (s.takeFault c).vol = s.vol := by simp [State.takeFault]
@[simp] theorem State.takeFault_pan (c : Cause) (s : State) : (s.takeFault c).pan = s.pan := by simp [State.takeFault]
@[simp] theorem State.takeFault_program (c : Cause) (s : State) : (s.takeFault c).program = s.program := by simp [State.takeFault]
@[simp] theorem State.takeFault_bend (c : Cause) (s : State) : (s.takeFault c).bend = s.bend := by simp [State.takeFault]
@[simp] theorem State.takeFault_voices (c : Cause) (s : State) : (s.takeFault c).voices = s.voices := by simp [State.takeFault]
@[simp] theorem State.takeFault_params (c : Cause) (s : State) : (s.takeFault c).params = s.params := by simp [State.takeFault]
@[simp] theorem State.takeFault_arriving (c : Cause) (s : State) : (s.takeFault c).arriving = s.arriving := by simp [State.takeFault]
@[simp] theorem State.takeFault_observed (c : Cause) (s : State) : (s.takeFault c).observed = s.observed := by simp [State.takeFault]

@[simp] theorem State.reconstructed_mode (s : State) : (s.reconstructed).mode = .run := rfl
@[simp] theorem State.reconstructed_faultCause (s : State) : (s.reconstructed).faultCause = 0 := rfl
@[simp] theorem State.reconstructed_errProto (s : State) : (s.reconstructed).errProto = false := rfl
@[simp] theorem State.reconstructed_errCfg (s : State) : (s.reconstructed).errCfg = false := rfl
@[simp] theorem State.reconstructed_errNumeric (s : State) : (s.reconstructed).errNumeric = false := rfl
@[simp] theorem State.reconstructed_cfg (s : State) : (s.reconstructed).cfg = .unset := rfl
@[simp] theorem State.reconstructed_vol (s : State) : (s.reconstructed).vol = ⟨0x3F800000#32, 0x3F800000#32⟩ := rfl
@[simp] theorem State.reconstructed_pan (s : State) : (s.reconstructed).pan = ⟨0x3F000000#32, 0x3F000000#32⟩ := rfl
@[simp] theorem State.reconstructed_program (s : State) : (s.reconstructed).program = 0 := rfl
@[simp] theorem State.reconstructed_bend (s : State) : (s.reconstructed).bend = 0 := rfl
@[simp] theorem State.reconstructed_voices (s : State) : (s.reconstructed).voices = Vector.replicate 32 Voice.silent := rfl
@[simp] theorem State.reconstructed_params (s : State) : (s.reconstructed).params = s.params := rfl
@[simp] theorem State.reconstructed_arriving (s : State) : (s.reconstructed).arriving = s.arriving := rfl
@[simp] theorem State.reconstructed_observed (s : State) : (s.reconstructed).observed = s.observed := rfl

@[simp] theorem State.pulledState_mode (g : Settings) (vs : Vector Voice 32) (s : State) : (pulledState g vs s).mode = s.mode := rfl
@[simp] theorem State.pulledState_faultCause (g : Settings) (vs : Vector Voice 32) (s : State) : (pulledState g vs s).faultCause = s.faultCause := rfl
@[simp] theorem State.pulledState_errProto (g : Settings) (vs : Vector Voice 32) (s : State) : (pulledState g vs s).errProto = s.errProto := rfl
@[simp] theorem State.pulledState_errCfg (g : Settings) (vs : Vector Voice 32) (s : State) : (pulledState g vs s).errCfg = s.errCfg := rfl
@[simp] theorem State.pulledState_errNumeric (g : Settings) (vs : Vector Voice 32) (s : State) : (pulledState g vs s).errNumeric = s.errNumeric := rfl
@[simp] theorem State.pulledState_cfg (g : Settings) (vs : Vector Voice 32) (s : State) : (pulledState g vs s).cfg = s.cfg := rfl
@[simp] theorem State.pulledState_vol (g : Settings) (vs : Vector Voice 32) (s : State) : (pulledState g vs s).vol = rampPull s.vol g.volUp g.volDown := rfl
@[simp] theorem State.pulledState_pan (g : Settings) (vs : Vector Voice 32) (s : State) : (pulledState g vs s).pan = rampPull s.pan g.panUp g.panDown := rfl
@[simp] theorem State.pulledState_program (g : Settings) (vs : Vector Voice 32) (s : State) : (pulledState g vs s).program = s.program := rfl
@[simp] theorem State.pulledState_bend (g : Settings) (vs : Vector Voice 32) (s : State) : (pulledState g vs s).bend = s.bend := rfl
@[simp] theorem State.pulledState_voices (g : Settings) (vs : Vector Voice 32) (s : State) : (pulledState g vs s).voices = vs.map tickElapsed := rfl
@[simp] theorem State.pulledState_params (g : Settings) (vs : Vector Voice 32) (s : State) : (pulledState g vs s).params = s.params := rfl
@[simp] theorem State.pulledState_arriving (g : Settings) (vs : Vector Voice 32) (s : State) : (pulledState g vs s).arriving = s.arriving := rfl
@[simp] theorem State.pulledState_observed (g : Settings) (vs : Vector Voice 32) (s : State) : (pulledState g vs s).observed = s.observed := rfl

/-! Voices. -/

/-- The voice just written. -/
@[simp] theorem State.voice_setVoice_same (s : State) (i : Slot) (v : Voice) : (s.setVoice i v).voice i = v := by
  simp [State.voice, State.setVoice]

/-- The other voices stay. -/
theorem State.voice_setVoice_other {s : State} {i j : Slot} {v : Voice} (h : j ≠ i) :
    (s.setVoice i v).voice j = s.voice j := by
  have : i.val ≠ j.val := fun e => h (Fin.ext e.symm)
  simp [State.voice, State.setVoice, Vector.getElem_set_ne, this]

/-- Two states with the same voice register file have the same voices. -/
theorem State.voice_congr {s t : State} (h : t.voices = s.voices) (i : Slot) : t.voice i = s.voice i := by
  simp [State.voice, h]

@[simp] theorem State.voice_emit (o : Output) (s : State) (i : Slot) : (s.emit o).voice i = s.voice i := rfl
@[simp] theorem State.voice_present (w : OpWord) (s : State) (i : Slot) : (s.present w).voice i = s.voice i := rfl
@[simp] theorem State.voice_clearFlags (d : Word) (s : State) (i : Slot) : (s.clearFlags d).voice i = s.voice i := rfl
@[simp] theorem State.voice_flagged (c : Cause) (s : State) (i : Slot) : (s.flagged c).voice i = s.voice i :=
  State.voice_congr (by simp) i
@[simp] theorem State.voice_takeFault (c : Cause) (s : State) (i : Slot) : (s.takeFault c).voice i = s.voice i :=
  State.voice_congr (by simp) i
@[simp] theorem State.voice_reconstructed (s : State) (i : Slot) : s.reconstructed.voice i = Voice.silent := by
  simp [State.voice]
@[simp] theorem State.voice_pulledState (g : Settings) (vs : Vector Voice 32) (s : State) (i : Slot) :
    (pulledState g vs s).voice i = tickElapsed vs[i.val] := by
  simp [State.voice]

/-- A tick of the elapsed counter is a saturating increment. -/
theorem tickElapsed_elapsed_toNat (v : Voice) :
    (tickElapsed v).elapsed.toNat = min (v.elapsed.toNat + 1) 0xFFFFFFFF := by
  unfold tickElapsed
  split
  next h => simp [h]
  next h =>
    have : v.elapsed.toNat ≠ 0xFFFFFFFF := fun e => h (BitVec.eq_of_toNat_eq (by simpa using e))
    have := v.elapsed.isLt
    simp only [BitVec.toNat_add, BitVec.toNat_ofNat]
    omega

@[simp] theorem tickElapsed_key (v : Voice) : (tickElapsed v).key = v.key := rfl
@[simp] theorem tickElapsed_vel (v : Voice) : (tickElapsed v).vel = v.vel := rfl
@[simp] theorem tickElapsed_phase (v : Voice) : (tickElapsed v).phase = v.phase := rfl
@[simp] theorem tickElapsed_inc (v : Voice) : (tickElapsed v).inc = v.inc := rfl
@[simp] theorem tickElapsed_env (v : Voice) : (tickElapsed v).env = v.env := rfl
@[simp] theorem tickElapsed_level (v : Voice) : (tickElapsed v).level = v.level := rfl
@[simp] theorem tickElapsed_mult (v : Voice) : (tickElapsed v).mult = v.mult := rfl
@[simp] theorem tickElapsed_x1 (v : Voice) : (tickElapsed v).x1 = v.x1 := rfl
@[simp] theorem tickElapsed_x2 (v : Voice) : (tickElapsed v).x2 = v.x2 := rfl
@[simp] theorem tickElapsed_y1 (v : Voice) : (tickElapsed v).y1 = v.y1 := rfl
@[simp] theorem tickElapsed_y2 (v : Voice) : (tickElapsed v).y2 = v.y2 := rfl
@[simp] theorem tickElapsed_low (v : Voice) : (tickElapsed v).low = v.low := rfl
@[simp] theorem tickElapsed_band (v : Voice) : (tickElapsed v).band = v.band := rfl
@[simp] theorem oscAdvance_key (v : Voice) : (oscAdvance v).key = v.key := rfl
@[simp] theorem oscAdvance_vel (v : Voice) : (oscAdvance v).vel = v.vel := rfl
@[simp] theorem oscAdvance_elapsed (v : Voice) : (oscAdvance v).elapsed = v.elapsed := rfl
@[simp] theorem oscAdvance_inc (v : Voice) : (oscAdvance v).inc = v.inc := rfl
@[simp] theorem oscAdvance_env (v : Voice) : (oscAdvance v).env = v.env := rfl
@[simp] theorem oscAdvance_level (v : Voice) : (oscAdvance v).level = v.level := rfl
@[simp] theorem oscAdvance_mult (v : Voice) : (oscAdvance v).mult = v.mult := rfl
@[simp] theorem oscAdvance_x1 (v : Voice) : (oscAdvance v).x1 = v.x1 := rfl
@[simp] theorem oscAdvance_x2 (v : Voice) : (oscAdvance v).x2 = v.x2 := rfl
@[simp] theorem oscAdvance_y1 (v : Voice) : (oscAdvance v).y1 = v.y1 := rfl
@[simp] theorem oscAdvance_y2 (v : Voice) : (oscAdvance v).y2 = v.y2 := rfl
@[simp] theorem oscAdvance_low (v : Voice) : (oscAdvance v).low = v.low := rfl
@[simp] theorem oscAdvance_band (v : Voice) : (oscAdvance v).band = v.band := rfl
@[simp] theorem oscSetFreq_key (n : Numerics) (p : Params) (pk : BitVec 7) (v : Voice) : (oscSetFreq n p pk v).key = v.key := rfl
@[simp] theorem oscSetFreq_vel (n : Numerics) (p : Params) (pk : BitVec 7) (v : Voice) : (oscSetFreq n p pk v).vel = v.vel := rfl
@[simp] theorem oscSetFreq_elapsed (n : Numerics) (p : Params) (pk : BitVec 7) (v : Voice) : (oscSetFreq n p pk v).elapsed = v.elapsed := rfl
@[simp] theorem oscSetFreq_phase (n : Numerics) (p : Params) (pk : BitVec 7) (v : Voice) : (oscSetFreq n p pk v).phase = v.phase := rfl
@[simp] theorem oscSetFreq_env (n : Numerics) (p : Params) (pk : BitVec 7) (v : Voice) : (oscSetFreq n p pk v).env = v.env := rfl
@[simp] theorem oscSetFreq_level (n : Numerics) (p : Params) (pk : BitVec 7) (v : Voice) : (oscSetFreq n p pk v).level = v.level := rfl
@[simp] theorem oscSetFreq_mult (n : Numerics) (p : Params) (pk : BitVec 7) (v : Voice) : (oscSetFreq n p pk v).mult = v.mult := rfl
@[simp] theorem oscSetFreq_x1 (n : Numerics) (p : Params) (pk : BitVec 7) (v : Voice) : (oscSetFreq n p pk v).x1 = v.x1 := rfl
@[simp] theorem oscSetFreq_x2 (n : Numerics) (p : Params) (pk : BitVec 7) (v : Voice) : (oscSetFreq n p pk v).x2 = v.x2 := rfl
@[simp] theorem oscSetFreq_y1 (n : Numerics) (p : Params) (pk : BitVec 7) (v : Voice) : (oscSetFreq n p pk v).y1 = v.y1 := rfl
@[simp] theorem oscSetFreq_y2 (n : Numerics) (p : Params) (pk : BitVec 7) (v : Voice) : (oscSetFreq n p pk v).y2 = v.y2 := rfl
@[simp] theorem oscSetFreq_low (n : Numerics) (p : Params) (pk : BitVec 7) (v : Voice) : (oscSetFreq n p pk v).low = v.low := rfl
@[simp] theorem oscSetFreq_band (n : Numerics) (p : Params) (pk : BitVec 7) (v : Voice) : (oscSetFreq n p pk v).band = v.band := rfl

end Sys2Proof.Machine
end

