-- ==== Sys2Proof/Laws/Ops.lean ====
section
/-! SUPPORT. One inversion lemma per shared operation and per meaning: what it can answer, said once. -/

namespace Sys2Proof.Machine

variable {s t : State} {c : Cause}

@[simp] theorem next_inj {a b : State} : (Host.Outcome.next a : Result) = .next b ↔ a = b :=
  ⟨fun h => by cases h; rfl, fun h => by rw [h]⟩

@[simp] theorem fault_ne_next {f : Fault} {a : State} : ((Host.Outcome.fault f : Result) = .next a) = False := by
  simp

@[simp] theorem raise_eq_next : raise c s = .next t ↔ s.takeFault c = t := by
  simp [raise]

theorem raise_def : raise c s = .next (s.takeFault c) := rfl

/-- Setting the cause's flag before taking its fault adds nothing. -/
@[simp] theorem State.takeFault_flagged (c : Cause) (s : State) : (s.flagged c).takeFault c = s.takeFault c := by
  cases c <;> rfl

/-! The gates of the top-level step (40_channel_commands.md R45). -/

theorem whenRunning_run {k : Result} (h : s.mode = .run) : whenRunning s k = k := by simp [whenRunning, h]

theorem whenRunning_faulted {k : Result} (h : s.mode = .faulted) : whenRunning s k = .fault .heldInFaulted := by
  simp [whenRunning, h]

theorem whenRunning_eq_next {k : Result} : whenRunning s k = .next t ↔ s.mode = .run ∧ k = .next t := by
  cases h : s.mode <;> simp [whenRunning, h]

theorem configuredOp_ready {g : Settings} {k : Settings → Result} (hm : s.mode = .run)
    (hg : s.cfg.settings = some g) : configuredOp s k = k g := by
  simp [configuredOp, whenRunning, whenConfigured, hm, hg]

theorem configuredOp_unset {k : Settings → Result} (hm : s.mode = .run) (hg : s.cfg.settings = none) :
    configuredOp s k = .next (s.takeFault .cfgUnset) := by
  simp [configuredOp, whenRunning, whenConfigured, hm, hg]

theorem configuredOp_faulted {k : Settings → Result} (hm : s.mode = .faulted) :
    configuredOp s k = .fault .heldInFaulted := whenRunning_faulted hm

/-- A CMD row or PULL that answers a state: the CFG_UNSET fault, or its rule's answer. -/
theorem configuredOp_eq_next {k : Settings → Result} :
    configuredOp s k = .next t ↔
      s.mode = .run ∧ ((s.cfg.settings = none ∧ s.takeFault .cfgUnset = t) ∨
        ∃ g, s.cfg.settings = some g ∧ k g = .next t) := by
  rw [configuredOp, whenRunning_eq_next]
  cases hg : s.cfg.settings <;> simp [whenConfigured, hg]

/-! The error procedures. -/

theorem policyError_eq_next {f : State → State} :
    policyError c s f = .next t ↔
      (s.params.strict = true ∧ s.takeFault c = t) ∨ (s.params.strict = false ∧ f (s.flagged c) = t) := by
  cases h : s.params.strict <;> simp [policyError, h]

theorem protoError_eq_next :
    protoError s = .next t ↔
      (s.params.strict = true ∧ s.takeFault .proto = t) ∨ (s.params.strict = false ∧ s.flagged .proto = t) :=
  policyError_eq_next

theorem writeRefused_eq_next :
    writeRefused s = .next t ↔
      (s.params.strict = true ∧ s.takeFault .cfg = t) ∨ (s.params.strict = false ∧ s.flagged .cfg = t) :=
  policyError_eq_next

theorem readRefused_eq_next :
    readRefused s = .next t ↔
      (s.params.strict = true ∧ s.takeFault .cfg = t) ∨
        (s.params.strict = false ∧ (s.flagged .cfg).emit (.word 0) = t) :=
  policyError_eq_next

theorem illegalOp_eq_next :
    illegalOp s = .next t ↔
      s.mode = .run ∧
        ((s.params.strict = true ∧ s.takeFault .proto = t) ∨ (s.params.strict = false ∧ s.flagged .proto = t)) := by
  rw [illegalOp, whenRunning_eq_next, protoError_eq_next]

theorem numericError_eq_next {a : State} :
    numericError s a = .next t ↔
      (s.params.strict = true ∧ s.takeFault .numeric = t) ∨
        (s.params.strict = false ∧ (a.flagged .numeric).emit (.frame 0 0 0 0) = t) := by
  cases h : s.params.strict <;> simp [numericError, h]

/-! The meanings. -/

theorem otherController_eq_next {cc : BitVec 7} :
    otherController cc s = .next t ↔
      (s.params.ignoredCc.contains cc = true ∧ configuredOp s (fun _ => .next s) = .next t) ∨
        (s.params.ignoredCc.contains cc = false ∧ illegalOp s = .next t) := by
  unfold otherController
  cases s.params.ignoredCc.contains cc <;> simp

theorem noteOn_eq_next {n : Numerics} {note vel : BitVec 7} :
    noteOn n note vel s = .next t ↔
      s.mode = .run ∧ ((s.cfg.settings = none ∧ s.takeFault .cfgUnset = t) ∨
        ∃ g, s.cfg.settings = some g ∧
          ((pianoKey note = none ∧ protoError s = .next t) ∨
            ∃ pk, pianoKey note = some pk ∧
              ((∃ c, keyOnVoice n s.params g pk vel (s.voice (selectSlot s pk)) = .error c ∧ s.takeFault c = t) ∨
                ∃ v, keyOnVoice n s.params g pk vel (s.voice (selectSlot s pk)) = .ok v ∧
                  s.setVoice (selectSlot s pk) v = t))) := by
  rw [noteOn, configuredOp_eq_next]
  refine and_congr_right fun _ => or_congr_right (exists_congr fun g => and_congr_right fun _ => ?_)
  cases hp : pianoKey note with
  | none => simp
  | some pk => cases hk : keyOnVoice n s.params g pk vel (s.voice (selectSlot s pk)) <;> simp [hk]

theorem noteOff_eq_next {n : Numerics} {note : BitVec 7} :
    noteOff n note s = .next t ↔
      s.mode = .run ∧ ((s.cfg.settings = none ∧ s.takeFault .cfgUnset = t) ∨
        ∃ g, s.cfg.settings = some g ∧
          ((pianoKey note = none ∧ protoError s = .next t) ∨
            ∃ pk, pianoKey note = some pk ∧
              ((boundSlot s pk = none ∧ s = t) ∨
                ∃ i, boundSlot s pk = some i ∧
                  ((∃ c, envKeyOff n s.params g (s.voice i) = .error c ∧ s.takeFault c = t) ∨
                    ∃ v, envKeyOff n s.params g (s.voice i) = .ok v ∧ s.setVoice i v = t)))) := by
  rw [noteOff, configuredOp_eq_next]
  refine and_congr_right fun _ => or_congr_right (exists_congr fun g => and_congr_right fun _ => ?_)
  cases hp : pianoKey note with
  | none => simp
  | some pk =>
    cases hb : boundSlot s pk with
    | none => simp [hb]
    | some i => cases hk : envKeyOff n s.params g (s.voice i) <;> simp [hb, hk]

theorem execPolyPressure_eq_next {note : BitVec 7} :
    execPolyPressure note s = .next t ↔
      s.mode = .run ∧ ((s.cfg.settings = none ∧ s.takeFault .cfgUnset = t) ∨
        ∃ g, s.cfg.settings = some g ∧
          ((pianoKey note = none ∧ protoError s = .next t) ∨ ∃ pk, pianoKey note = some pk ∧ s = t)) := by
  rw [execPolyPressure, configuredOp_eq_next]
  refine and_congr_right fun _ => or_congr_right (exists_congr fun g => and_congr_right fun _ => ?_)
  cases hp : pianoKey note <;> simp

theorem outputStage_eq_next {a : State} {acc : Word} :
    outputStage s a acc = .next t ↔
      (∃ l r, (l, r) = panSplit (fMul acc a.vol.value) a.pan.value ∧
          ((fFinite l = true ∧ fFinite r = true ∧ a.emit (.frame l r (toS16 l) (toS16 r)) = t) ∨
            ((fFinite l && fFinite r) = false ∧ numericError s a = .next t))) := by
  obtain ⟨l, r, h⟩ : ∃ l r, (l, r) = panSplit (fMul acc a.vol.value) a.pan.value := ⟨_, _, rfl⟩
  rw [outputStage, ← h]
  constructor
  · intro hn
    refine ⟨l, r, rfl, ?_⟩
    cases hl : fFinite l <;> cases hr : fFinite r <;> simp [hl, hr] at hn ⊢ <;> exact hn
  · rintro ⟨l', r', h', hn⟩
    cases h'
    cases hl : fFinite l <;> cases hr : fFinite r <;> simp [hl, hr] at hn ⊢ <;> exact hn

theorem pullWith_eq_next {n : Numerics} :
    pullWith n s = .next t ↔
      s.mode = .run ∧ ((s.cfg.settings = none ∧ s.takeFault .cfgUnset = t) ∨
        ∃ g, s.cfg.settings = some g ∧
          ((∃ c, renderSlots n s.params g slots s.voices 0#32 = .error c ∧ s.takeFault c = t) ∨
            ∃ vs acc, renderSlots n s.params g slots s.voices 0#32 = .ok (vs, acc) ∧
              outputStage s (pulledState g vs s) acc = .next t)) := by
  rw [pullWith, configuredOp_eq_next]
  refine and_congr_right fun _ => or_congr_right (exists_congr fun g => and_congr_right fun _ => ?_)
  cases hr : renderSlots n s.params g slots s.voices 0#32 with
  | error c => simp
  | ok r => obtain ⟨vs, acc⟩ := r; simp

theorem execCfgWr_eq_next {addr : BitVec 8} {data : Word} :
    execCfgWr addr data s = .next t ↔
      s.mode = .run ∧
        ((∃ r, regAt addr = .cfg r ∧ legalValue s.params r data = true ∧ { s with cfg := s.cfg.write r data } = t) ∨
          (regAt addr = .status ∧ statusWriteRefused data = false ∧ s.clearFlags data = t) ∨
          (((∃ r, regAt addr = .cfg r ∧ legalValue s.params r data = false) ∨
              (regAt addr = .status ∧ statusWriteRefused data = true) ∨
              ((∀ r, regAt addr ≠ .cfg r) ∧ regAt addr ≠ .status)) ∧
            writeRefused s = .next t)) := by
  rw [execCfgWr, whenRunning_eq_next]
  refine and_congr_right fun _ => ?_
  cases hr : regAt addr with
  | cfg r => cases hl : legalValue s.params r data <;> simp [hl]
  | status => cases hl : statusWriteRefused data <;> simp
  | _ => simp

theorem execCfgRd_eq_next {addr : BitVec 8} :
    execCfgRd addr s = .next t ↔
      (∃ w, s.readReg (regAt addr) = some w ∧ s.emit (.word w) = t) ∨
        (s.readReg (regAt addr) = none ∧ s.mode = .run ∧
          ((regAt addr = .reserved ∧ readRefused s = .next t) ∨
            (regAt addr ≠ .reserved ∧ s.takeFault .cfgUnset = t))) := by
  rw [execCfgRd]
  cases hr : s.readReg (regAt addr) with
  | some w => simp
  | none =>
    cases hm : s.mode with
    | faulted => simp
    | run => by_cases h : regAt addr = .reserved <;> simp [h]

/-! The voice selection (40_channel_commands.md R46). -/

/-- Every slot is among the slots. -/
theorem mem_slots (i : Slot) : i ∈ slots := List.mem_finRange i

theorem boundSlot_some {pk : BitVec 7} {i : Slot} (h : boundSlot s pk = some i) : (s.voice i).key = pk := by
  have := List.find?_some h
  simpa using this

theorem boundSlot_none {pk : BitVec 7} (h : boundSlot s pk = none) (i : Slot) : (s.voice i).key ≠ pk := by
  have := List.find?_eq_none.mp h i (mem_slots i)
  simpa using this

theorem freeSlot_some {i : Slot} (h : freeSlot s = some i) :
    (s.voice i).env = .off ∧ (s.voice i).key = Config.keyOff := by
  have := List.find?_some h
  simpa using this

theorem freeSlot_none (h : freeSlot s = none) (i : Slot) :
    ¬((s.voice i).env = .off ∧ (s.voice i).key = Config.keyOff) := by
  have := List.find?_eq_none.mp h i (mem_slots i)
  simpa using this

/-- A PianoKey is one of 1..88. -/
theorem pianoKey_range {note pk : BitVec 7} (h : pianoKey note = some pk) :
    pk.toNat = note.toNat - 20 ∧ 1 ≤ pk.toNat ∧ pk.toNat ≤ 88 := by
  unfold pianoKey at h
  split at h
  next hn =>
    cases h
    have := note.isLt
    rw [BitVec.toNat_sub]
    simp only [BitVec.toNat_ofNat]
    omega
  next => cases h

end Sys2Proof.Machine
end

