-- ==== Sys2Proof/Laws/Sum.lean ====
section
/-! SUPPORT. The voice sum of a pull: what a render answers, from each slot's own sample (41_render.md R57). -/

namespace Sys2Proof.Machine

variable {n : Numerics} {p : Params} {g : Settings}

theorem slots_nodup : slots.Nodup := List.nodup_finRange 32

/-- A render that does not fault computes each listed slot's sample from that slot's own voice, replaces that voice,
leaves the other slots alone, and adds the samples in list order. -/
theorem renderSlots_ok : ∀ {l : List Slot} {vs vs' : Vector Voice 32} {acc acc' : Word}, l.Nodup →
    renderSlots n p g l vs acc = .ok (vs', acc') →
    (∀ i, i ∉ l → vs'[i.val] = vs[i.val]) ∧
      ∃ f : Slot → Voice × Word, (∀ i ∈ l, voiceSample n p g vs[i.val] = .ok (f i) ∧ vs'[i.val] = (f i).1) ∧
        acc' = l.foldl (fun a i => fAdd a (f i).2) acc := by
  intro l
  induction l with
  | nil => intro vs vs' acc acc' _ h; cases h; exact ⟨fun _ _ => rfl, fun _ => (Voice.silent, 0), by simp, rfl⟩
  | cons i l ih =>
    intro vs vs' acc acc' hn h
    rw [renderSlots] at h
    split at h
    · cases h
    next v y hv =>
      rw [List.nodup_cons] at hn
      obtain ⟨h1, f, h2, h3⟩ := ih hn.2 h
      refine ⟨?_, fun j => if j = i then (v, y) else f j, ?_, ?_⟩
      · intro j hj
        simp only [List.mem_cons, not_or] at hj
        rw [h1 j hj.2, Vector.getElem_set_ne]
        exact fun e => hj.1 (Fin.ext e.symm)
      · intro j hj
        by_cases e : j = i
        · subst e; simp [hv]; rw [h1 j hn.1]; simp
        · simp only [e, if_false]
          have hj' : j ∈ l := by simpa [e] using hj
          have := h2 j hj'
          rw [Vector.getElem_set_ne] at this
          · exact this
          · exact fun e' => e (Fin.ext e'.symm)
      · rw [h3]
        simp only [List.foldl_cons, if_true]
        refine List.foldl_ext _ _ _ fun a b hb => ?_
        have : b ≠ i := fun e => hn.1 (e ▸ hb)
        simp [this]

/-- The same, read the other way: where each slot's sample is computed without a fault, so is the render. -/
theorem renderSlots_of_ok {f : Slot → Voice × Word} : ∀ {l : List Slot} {vs : Vector Voice 32} {acc : Word}, l.Nodup →
    (∀ i ∈ l, voiceSample n p g vs[i.val] = .ok (f i)) →
    ∃ vs', renderSlots n p g l vs acc = .ok (vs', l.foldl (fun a i => fAdd a (f i).2) acc) ∧
      (∀ i ∈ l, vs'[i.val] = (f i).1) ∧ ∀ i, i ∉ l → vs'[i.val] = vs[i.val] := by
  intro l
  induction l with
  | nil => intro vs acc _ _; exact ⟨vs, rfl, by simp, fun _ _ => rfl⟩
  | cons i l ih =>
    intro vs acc hn hf
    rw [List.nodup_cons] at hn
    have hne : ∀ j ∈ l, (i : Nat) ≠ (j : Nat) := fun j hj e => hn.1 (Fin.ext e ▸ hj)
    obtain ⟨vs', h1, h2, h3⟩ := ih (vs := vs.set i.val (f i).1) (acc := fAdd acc (f i).2) hn.2 (by
      intro j hj
      rw [Vector.getElem_set_ne _ _ (hne j hj)]
      exact hf j (List.mem_cons_of_mem _ hj))
    refine ⟨vs', ?_, ?_, ?_⟩
    · rw [renderSlots, hf i List.mem_cons_self]; exact h1
    · intro j hj
      rcases List.mem_cons.mp hj with rfl | hj
      · rw [h3 j hn.1]; simp
      · exact h2 j hj
    · intro j hj
      simp only [List.mem_cons, not_or] at hj
      rw [h3 j hj.2, Vector.getElem_set_ne]
      exact fun e => hj.1 (Fin.ext e.symm)

/-- Where some listed slot's sample raises a fault, so does the render. -/
theorem renderSlots_of_error {l : List Slot} {vs : Vector Voice 32} {acc : Word} (hn : l.Nodup) {i : Slot} (hi : i ∈ l)
    {c : Cause} (h : voiceSample n p g vs[i.val] = .error c) : ∃ c', renderSlots n p g l vs acc = .error c' := by
  cases hr : renderSlots n p g l vs acc with
  | error c' => exact ⟨c', rfl⟩
  | ok r =>
    obtain ⟨_, f, hf, _⟩ := renderSlots_ok hn hr
    have := (hf i hi).1
    rw [h] at this
    cases this

/-- After a render that does not fault, each slot holds what its own sample leaves. -/
theorem render_slot {vs vs' : Vector Voice 32} {acc acc' : Word} (h : renderSlots n p g slots vs acc = .ok (vs', acc'))
    (i : Slot) : ∃ y, voiceSample n p g vs[i.val] = .ok (vs'[i.val], y) := by
  obtain ⟨_, f, hf, _⟩ := renderSlots_ok slots_nodup h
  obtain ⟨h1, h2⟩ := hf i (mem_slots i)
  exact ⟨(f i).2, by rw [h1, h2]⟩

end Sys2Proof.Machine
end

