-- ==== Sys2Proof/Laws/Exec.lean ====
section
/-! SUPPORT. What an operation that has a step can do, said once: a proof about every instruction takes `exec_next`
apart and never unfolds `exec`. -/

namespace Sys2Proof.Machine

/-! The configuration as a whole. -/
theorem settings_eq_none {c : ConfigRegs} {r : CfgReg} (h : c.read r = none) : c.settings = none := by
  cases c
  cases r <;> simp [ConfigRegs.read] at h <;> subst h <;> simp [ConfigRegs.settings]

theorem exists_unset {c : ConfigRegs} (h : c.settings = none) : ∃ r, c.read r = none := by
  by_contra hc
  push Not at hc
  have H : ∀ r, ∃ w, c.read r = some w := fun r => Option.ne_none_iff_exists'.mp (hc r)
  obtain ⟨_, h0⟩ := H .ctrl
  obtain ⟨_, h1⟩ := H .peak
  obtain ⟨_, h2⟩ := H .sustain
  obtain ⟨_, h3⟩ := H .attackT
  obtain ⟨_, h4⟩ := H .decayT
  obtain ⟨_, h5⟩ := H .releaseT
  obtain ⟨_, h6⟩ := H .cutoff
  obtain ⟨_, h7⟩ := H .resonance
  obtain ⟨_, h8⟩ := H .volUp
  obtain ⟨_, h9⟩ := H .volDown
  obtain ⟨_, h10⟩ := H .panUp
  obtain ⟨_, h11⟩ := H .panDown
  simp [ConfigRegs.read] at h0 h1 h2 h3 h4 h5 h6 h7 h8 h9 h10 h11
  obtain ⟨_, h0, _⟩ := h0
  simp [ConfigRegs.settings, h0, h1, h2, h3, h4, h5, h6, h7, h8, h9, h10, h11] at h

theorem regAt_cfgAddress (r : CfgReg) : regAt (cfgAddress r) = .cfg r := by cases r <;> rfl

/-! PianoKey. -/
theorem pianoKey_none {d : BitVec 7} (h : d.toNat < 21 ∨ 108 < d.toNat) : pianoKey d = none := by
  unfold pianoKey; rw [if_neg]; omega

theorem pianoKey_some {d : BitVec 7} (h : 21 ≤ d.toNat) (h' : d.toNat ≤ 108) : pianoKey d = some (d - 20) := by
  unfold pianoKey; rw [if_pos ⟨h, h'⟩]; rfl

theorem onPiano_eq_false {note : BitVec 7} (h : pianoKey note = none) : onPiano note = false := by
  unfold pianoKey at h
  split at h
  · cases h
  next hn => simpa [onPiano] using hn

/-! The envelope and the render raise ENV_PARAM and nothing else. -/
theorem envKeyOn_error {n : Numerics} {p : Params} {g : Settings} {v : Voice} {c : Cause}
    (h : envKeyOn n p g v = .error c) :
    c = .envParam := by
  unfold envKeyOn rampMult at h
  split at h
  · split at h
    · cases h; rfl
    · simp only at h
      split at h
      next hh => split at hh <;> cases hh; cases h; rfl
      next => cases h
  · cases h

theorem envKeyOff_error {n : Numerics} {p : Params} {g : Settings} {v : Voice} {c : Cause}
    (h : envKeyOff n p g v = .error c) :
    c = .envParam := by
  unfold envKeyOff rampMult at h
  split at h
  · simp only at h
    split at h
    next hh => split at hh <;> cases hh; cases h; rfl
    next => cases h
  · cases h

theorem attackEnd_error {n : Numerics} {p : Params} {g : Settings} {v : Voice} {c : Cause}
    (h : attackEnd n p g v = .error c) :
    c = .envParam := by
  unfold attackEnd rampMult at h
  split at h
  · cases h; rfl
  · simp only at h
    split at h
    next hh => split at hh <;> cases hh; cases h; rfl
    next => split at h <;> cases h; rfl

theorem envAdvance_error {n : Numerics} {p : Params} {g : Settings} {v : Voice} {c : Cause}
    (h : envAdvance n p g v = .error c) :
    c = .envParam := by
  unfold envAdvance at h
  simp only at h
  split at h
  · split at h
    · exact attackEnd_error h
    · cases h
  all_goals (try split at h) <;> cases h

theorem voiceSample_error {n : Numerics} {p : Params} {g : Settings} {v : Voice} {c : Cause}
    (h : voiceSample n p g v = .error c) :
    c = .envParam := by
  unfold voiceSample envStep at h
  split at h
  · cases h
  · simp only at h
    split at h
    next hh => cases h; exact envAdvance_error hh
    next => cases h

theorem renderSlots_error {n p g c} : ∀ {l vs acc}, renderSlots n p g l vs acc = .error c → c = .envParam := by
  intro l
  induction l with
  | nil => intro vs acc h; cases h
  | cons i l ih =>
    intro vs acc h
    rw [renderSlots] at h
    split at h
    next hh => cases h; exact voiceSample_error hh
    next => exact ih h

/-! The whole operation. -/

/-- The operations whose rules may end in a protocol error. -/
def mayProtoError (i : Instr) : Prop :=
  (∀ a d, i ≠ .cfgWr a d) ∧ (∀ a, i ≠ .cfgRd a) ∧ i ≠ .pull ∧ (∀ ch v, i ≠ .ccVolume ch v) ∧
    (∀ ch v, i ≠ .ccPan ch v) ∧ (∀ ch p d, i ≠ .programChange ch p d) ∧ ∀ ch l m, i ≠ .pitchBend ch l m

theorem mayProtoError_of_protocolError {p : Params} {i : Instr} (h : protocolError p i = true) : mayProtoError i := by
  cases i <;> simp [protocolError, mayProtoError] at h ⊢

/-- The operations that may raise a cause in a state, and the policy it takes. -/
def mayRaise (i : Instr) (s : State) : Cause → Prop
  | .proto => s.params.strict = true ∧ protocolError s.params i = true
  | .cfg => s.params.strict = true ∧ accessRefused s.params i
  | .numeric => s.params.strict = true ∧ i = .pull ∧ outputNotFinite s
  | .cfgUnset =>
    ∃ r, s.cfg.read r = none ∧ (needsConfiguration s.params i = true ∨ i = .cfgRd (cfgAddress r))
  | .envParam =>
    i = .pull ∨ (∃ ch d e, i = .noteOn ch d e) ∨ (∃ ch d e, i = .noteOff ch d e) ∨ ∃ ch d, i = .noteOnVel0 ch d

/-- Everything an operation can do: one constructor for each way `exec` answers a next state. -/
inductive Does (i : Instr) (s t : State) : Prop
  | fault (c : Cause) (hm : s.mode = .run) (h : t = s.takeFault c) (hc : mayRaise i s c)
  | protoLogged (hm : s.mode = .run) (h : t = s.flagged .proto) (hi : protocolError s.params i = true)
  | writeLogged (hm : s.mode = .run) (h : t = s.flagged .cfg) (hi : ∃ a d, i = .cfgWr a d)
      (ha : accessRefused s.params i)
  | readLogged (hm : s.mode = .run) (h : t = (s.flagged .cfg).emit (.word 0)) (hi : ∃ a, i = .cfgRd a)
      (ha : accessRefused s.params i)
  | same (hm : s.mode = .run) (h : t = s) (hi : mayProtoError i)
  | vol (hm : s.mode = .run) (x : Word) (h : t = { s with vol := { s.vol with target := x } })
      (hi : ∃ ch v, i = .ccVolume ch v)
  | pan (hm : s.mode = .run) (x : Word) (h : t = { s with pan := { s.pan with target := x } })
      (hi : ∃ ch v, i = .ccPan ch v)
  | program (hm : s.mode = .run) (x : BitVec 7) (h : t = { s with program := x })
      (hi : ∃ ch v d, i = .programChange ch v d)
  | bend (hm : s.mode = .run) (x : BitVec 14) (h : t = { s with bend := x }) (hi : ∃ ch v d, i = .pitchBend ch v d)
  | noteOn (hm : s.mode = .run) (g : Settings) (hg : s.cfg.settings = some g) (note vel pk : BitVec 7) (v : Voice)
      (hp : pianoKey note = some pk)
      (hv : keyOnVoice Config.numerics s.params g pk vel (s.voice (selectSlot s pk)) = .ok v)
      (h : t = s.setVoice (selectSlot s pk) v) (hi : ∃ ch, i = .noteOn ch note vel)
  | noteOff (hm : s.mode = .run) (g : Settings) (hg : s.cfg.settings = some g) (note pk : BitVec 7) (v : Voice)
      (k : Slot) (hp : pianoKey note = some pk) (hb : boundSlot s pk = some k)
      (hv : envKeyOff Config.numerics s.params g (s.voice k) = .ok v) (h : t = s.setVoice k v)
      (hi : (∃ ch e, i = .noteOff ch note e) ∨ ∃ ch, i = .noteOnVel0 ch note)
  | pulled (hm : s.mode = .run) (g : Settings) (hg : s.cfg.settings = some g) (vs : Vector Voice 32) (acc : Word)
      (hr : renderSlots Config.numerics s.params g slots s.voices 0#32 = .ok (vs, acc)) (l r : Word)
      (hl : (l, r) = panSplit (fMul acc (pulledState g vs s).vol.value) (pulledState g vs s).pan.value)
      (hf : fFinite l = true ∧ fFinite r = true)
      (h : t = (pulledState g vs s).emit (.frame l r (toS16 l) (toS16 r))) (hi : i = .pull)
  | silenced (hm : s.mode = .run) (g : Settings) (hg : s.cfg.settings = some g) (vs : Vector Voice 32) (acc : Word)
      (hr : renderSlots Config.numerics s.params g slots s.voices 0#32 = .ok (vs, acc)) (hst : s.params.strict = false)
      (h : t = ((pulledState g vs s).flagged .numeric).emit (.frame 0 0 0 0)) (hi : i = .pull) (hn : outputNotFinite s)
  | wrote (hm : s.mode = .run) (r : CfgReg) (data : Word) (a : BitVec 8) (ha : regAt a = .cfg r)
      (hl : legalValue s.params r data = true) (h : t = { s with cfg := s.cfg.write r data }) (hi : i = .cfgWr a data)
  | cleared (hm : s.mode = .run) (data : Word) (a : BitVec 8) (ha : regAt a = .status) (h : t = s.clearFlags data)
      (hi : i = .cfgWr a data)
  | read (w : Word) (h : t = s.emit (.word w)) (hi : ∃ a, i = .cfgRd a)
  | reset (h : t = s.reconstructed) (hi : i = .reset)

variable {i : Instr} {s t : State}

theorem does_illegalOp (hi : protocolError s.params i = true) (h : illegalOp s = .next t) : Does i s t := by
  rw [illegalOp_eq_next] at h
  obtain ⟨hm, ⟨hs, h⟩ | ⟨hs, h⟩⟩ := h
  · exact .fault .proto hm h.symm ⟨hs, hi⟩
  · exact .protoLogged hm h.symm hi

theorem does_protoError (hm : s.mode = .run) (hi : protocolError s.params i = true) (h : protoError s = .next t) : Does i s t := by
  rw [protoError_eq_next] at h
  obtain ⟨hs, h⟩ | ⟨hs, h⟩ := h
  · exact .fault .proto hm h.symm ⟨hs, hi⟩
  · exact .protoLogged hm h.symm hi

theorem does_unset (hi : needsConfiguration s.params i = true) (hm : s.mode = .run) (hg : s.cfg.settings = none)
    (h : s.takeFault .cfgUnset = t) : Does i s t :=
  .fault .cfgUnset hm h.symm ((exists_unset hg).imp fun _ h => ⟨h, .inl hi⟩)

/-- A render that does not fault but gives an output that is not finite. -/
theorem outputNotFinite_of_render {g : Settings} {vs : Vector Voice 32} {acc l r : Word} (hg : s.cfg.settings = some g)
    (hr : renderSlots Config.numerics s.params g slots s.voices 0#32 = .ok (vs, acc))
    (hl : (l, r) = panSplit (fMul acc (pulledState g vs s).vol.value) (pulledState g vs s).pan.value)
    (hf : (fFinite l && fFinite r) = false) : outputNotFinite s := by
  obtain ⟨_, f, h1, h2⟩ := renderSlots_ok slots_nodup hr
  refine ⟨g, f, hg, fun i => (h1 i (mem_slots i)).1, ?_⟩
  cases hl
  simp only [← h2]
  simpa [pulledState] using hf

theorem does_otherController {cc : BitVec 7} (hs : mayProtoError i)
    (hi : protocolError s.params i = !s.params.ignoredCc.contains cc)
    (hc : needsConfiguration s.params i = s.params.ignoredCc.contains cc) (h : otherController cc s = .next t) :
    Does i s t := by
  rw [otherController_eq_next] at h
  obtain ⟨hcc, h⟩ | ⟨hcc, h⟩ := h
  · rw [configuredOp_eq_next] at h
    obtain ⟨hm, ⟨hg, h⟩ | ⟨g, hg, h⟩⟩ := h
    · exact does_unset (hc.trans hcc) hm hg h
    · simp at h; exact .same hm h.symm hs
  · exact does_illegalOp (by rw [hi, hcc]; rfl) h

theorem does_noteOff {note : BitVec 7} (hi : (∃ ch e, i = .noteOff ch note e) ∨ ∃ ch, i = .noteOnVel0 ch note)
    (h : noteOff Config.numerics note s = .next t) :
    Does i s t := by
  rw [noteOff_eq_next] at h
  have hh : mayProtoError i := by
    obtain ⟨ch, e, rfl⟩ | ⟨ch, rfl⟩ := hi <;> simp [mayProtoError]
  obtain ⟨hm, ⟨hg, h⟩ | ⟨g, hg, ⟨hp, h⟩ | ⟨pk, hp, ⟨hb, h⟩ | ⟨k, hb, ⟨c, hv, h⟩ | ⟨v, hv, h⟩⟩⟩⟩⟩ := h
  · exact does_unset (by obtain ⟨ch, e, rfl⟩ | ⟨ch, rfl⟩ := hi <;> simp [needsConfiguration]) hm hg h
  · exact does_protoError hm (by
      obtain ⟨ch, e, rfl⟩ | ⟨ch, rfl⟩ := hi <;> simp [protocolError, onPiano_eq_false hp]) h
  · exact .same hm h.symm hh
  · obtain rfl := envKeyOff_error hv
    exact .fault _ hm h.symm (by obtain ⟨ch, e, rfl⟩ | ⟨ch, rfl⟩ := hi <;> simp [mayRaise])
  · exact .noteOff hm g hg note pk v k hp hb hv h.symm hi

/-- What `execCfgWr` refuses is no accepted write. -/
theorem not_writeAccepted {p : Params} {a : BitVec 8} {d : Word}
    (h : (∃ r, regAt a = .cfg r ∧ legalValue p r d = false) ∨ (regAt a = .status ∧ statusWriteRefused d = true) ∨
      ((∀ r, regAt a ≠ .cfg r) ∧ regAt a ≠ .status)) : ¬writeAccepted p a d := by
  rintro (⟨r, rfl, hl⟩ | ⟨rfl, hd⟩)
  · rw [regAt_cfgAddress] at h
    obtain ⟨r', hr, hl'⟩ | ⟨h, -⟩ | ⟨h, -⟩ := h
    · cases hr; simp [hl] at hl'
    · cases h
    · exact h r rfl
  · have hr : regAt 0x10#8 = .status := rfl
    rw [hr] at h
    obtain ⟨r', hr, -⟩ | ⟨-, h⟩ | ⟨-, h⟩ := h
    · cases hr
    · exact (statusWriteRefused_iff d).mp h hd
    · exact h rfl

/-- An operation that has a step does one of the things `Does` lists. -/
theorem exec_next (h : exec i s = .next t) : Does i s t := by
  cases i <;> simp only [exec, execIllegalOpword, execIllegalNoStatus, execIllegalChannelPressure, execIllegalSystem,
    execIllegalData1, execIllegalData2] at h
  case illegalOpword => exact does_illegalOp rfl h
  case illegalNoStatus => exact does_illegalOp rfl h
  case illegalChannelPressure => exact does_illegalOp rfl h
  case illegalSystem => exact does_illegalOp rfl h
  case illegalData1 => exact does_illegalOp rfl h
  case illegalData2 => exact does_illegalOp rfl h
  case ccIgnored1 => exact does_otherController (by simp [mayProtoError]) rfl rfl h
  case ccIgnored64 => exact does_otherController (by simp [mayProtoError]) rfl rfl h
  case ccIgnored91 => exact does_otherController (by simp [mayProtoError]) rfl rfl h
  case ccIgnored92 => exact does_otherController (by simp [mayProtoError]) rfl rfl h
  case ccIgnored93 => exact does_otherController (by simp [mayProtoError]) rfl rfl h
  case ccIgnored94 => exact does_otherController (by simp [mayProtoError]) rfl rfl h
  case ccIgnored95 => exact does_otherController (by simp [mayProtoError]) rfl rfl h
  case ccUnhandled => exact does_otherController (by simp [mayProtoError]) rfl rfl h
  case noteOff => exact does_noteOff (by simp) h
  case noteOnVel0 => exact does_noteOff (by simp) h
  case programChange =>
    rw [execProgramChange, configuredOp_eq_next] at h
    obtain ⟨hm, ⟨hg, h⟩ | ⟨g, hg, h⟩⟩ := h
    · exact does_unset rfl hm hg h
    · simp at h; exact .program hm _ h.symm (by simp)
  case pitchBend =>
    rw [execPitchBend, configuredOp_eq_next] at h
    obtain ⟨hm, ⟨hg, h⟩ | ⟨g, hg, h⟩⟩ := h
    · exact does_unset rfl hm hg h
    · simp at h; exact .bend hm _ h.symm (by simp)
  case ccVolume =>
    rw [execCcVolume, configuredOp_eq_next] at h
    obtain ⟨hm, ⟨hg, h⟩ | ⟨g, hg, h⟩⟩ := h
    · exact does_unset rfl hm hg h
    · simp at h; exact .vol hm _ h.symm (by simp)
  case ccPan =>
    rw [execCcPan, configuredOp_eq_next] at h
    obtain ⟨hm, ⟨hg, h⟩ | ⟨g, hg, h⟩⟩ := h
    · exact does_unset rfl hm hg h
    · simp at h; exact .pan hm _ h.symm (by simp)
  case polyPressure =>
    rw [execPolyPressure_eq_next] at h
    obtain ⟨hm, ⟨hg, h⟩ | ⟨g, hg, ⟨hp, h⟩ | ⟨pk, hp, h⟩⟩⟩ := h
    · exact does_unset rfl hm hg h
    · exact does_protoError hm (by simp [protocolError, onPiano_eq_false hp]) h
    · exact .same hm h.symm (by simp [mayProtoError])
  case noteOn =>
    rw [execNoteOn, noteOn_eq_next] at h
    obtain ⟨hm, ⟨hg, h⟩ | ⟨g, hg, ⟨hp, h⟩ | ⟨pk, hp, ⟨c, hv, h⟩ | ⟨v, hv, h⟩⟩⟩⟩ := h
    · exact does_unset rfl hm hg h
    · exact does_protoError hm (by simp [protocolError, onPiano_eq_false hp]) h
    · obtain rfl := envKeyOn_error hv
      exact .fault _ hm h.symm (by simp [mayRaise])
    · exact .noteOn hm g hg _ _ pk v hp hv h.symm (by simp)
  case pull =>
    rw [execPull, pullWith_eq_next] at h
    obtain ⟨hm, ⟨hg, h⟩ | ⟨g, hg, ⟨c, hv, h⟩ | ⟨vs, acc, hv, h⟩⟩⟩ := h
    · exact does_unset rfl hm hg h
    · obtain rfl := renderSlots_error hv
      exact .fault _ hm h.symm (by simp [mayRaise])
    · rw [outputStage_eq_next] at h
      obtain ⟨l, r, hl, ⟨h1, h2, h⟩ | ⟨h1, h⟩⟩ := h
      · exact .pulled hm g hg vs acc hv l r hl ⟨h1, h2⟩ h.symm rfl
      · rw [numericError_eq_next] at h
        obtain ⟨hs, h⟩ | ⟨hs, h⟩ := h
        · exact .fault .numeric hm h.symm ⟨hs, rfl, outputNotFinite_of_render hg hv hl h1⟩
        · exact .silenced hm g hg vs acc hv hs h.symm rfl (outputNotFinite_of_render hg hv hl h1)
  case cfgWr a d =>
    rw [execCfgWr_eq_next] at h
    obtain ⟨hm, ⟨r, hr, hl, h⟩ | ⟨hr, hl, h⟩ | ⟨hn, h⟩⟩ := h
    · exact .wrote hm r d a hr hl h.symm rfl
    · exact .cleared hm d a hr h.symm rfl
    · have ha : accessRefused s.params (.cfgWr a d) := .inl ⟨a, d, rfl, not_writeAccepted hn⟩
      rw [writeRefused_eq_next] at h
      obtain ⟨hs, h⟩ | ⟨hs, h⟩ := h
      · exact .fault .cfg hm h.symm ⟨hs, ha⟩
      · exact .writeLogged hm h.symm (by simp) ha
  case cfgRd a =>
    rw [execCfgRd_eq_next] at h
    obtain ⟨w, hr, h⟩ | ⟨hr, hm, ⟨ha, h⟩ | ⟨ha, h⟩⟩ := h
    · exact .read w h.symm (by simp)
    · have hx : accessRefused s.params (.cfgRd a) := .inr ⟨a, rfl, ha⟩
      rw [readRefused_eq_next] at h
      obtain ⟨hs, h⟩ | ⟨hs, h⟩ := h
      · exact .fault .cfg hm h.symm ⟨hs, hx⟩
      · exact .readLogged hm h.symm (by simp) hx
    · refine .fault .cfgUnset hm h.symm ?_
      cases hra : regAt a <;> simp [hra, State.readReg] at hr ha
      exact ⟨_, hr, .inr (by rw [eq_cfgAddress_of_regAt hra])⟩
  case reset => simp [execReset] at h; exact .reset h.symm rfl

end Sys2Proof.Machine
end

