-- ==== Sys2Proof/Laws/Float.lean ====
section
/-! SUPPORT. Binary32 arithmetic: patterns and values, exactness of representable values, monotone rounding. -/

namespace Sys2Proof.Machine

/-! Patterns. -/

theorem floatWord_toNat {neg : Bool} {bits : Nat} (h : bits < 2 ^ 31) :
    (floatWord neg bits).toNat = (if neg then 2 ^ 31 else 0) + bits := by
  rw [floatWord, BitVec.toNat_ofNat, Nat.mod_eq_of_lt]
  split <;> omega

theorem floatWord_bits {neg : Bool} {bits : Nat} (h : bits < 2 ^ 31) :
    (floatWord neg bits).toNat % 2 ^ 31 = bits := by
  rw [floatWord_toNat h]
  split <;> omega

theorem floatWord_msb {neg : Bool} {bits : Nat} (h : bits < 2 ^ 31) : (floatWord neg bits).msb = neg := by
  rw [BitVec.msb_eq_decide, floatWord_toNat h]
  cases neg <;> simp
  omega

/-- Every pattern is its sign and its other 31 bits. -/
theorem floatWord_self (x : Word) : floatWord x.msb (x.toNat % 2 ^ 31) = x := by
  apply BitVec.eq_of_toNat_eq
  rw [floatWord_toNat (Nat.mod_lt _ (by decide))]
  have := x.isLt
  rw [BitVec.msb_eq_decide]
  simp only [decide_eq_true_eq]
  split <;> omega

theorem floatValue_floatWord {neg : Bool} {bits : Nat} (h : bits < 0x7F800000) :
    floatValue (floatWord neg bits) = .fin neg (magnitude bits) := by
  have h' : bits < 2 ^ 31 := by omega
  simp only [floatValue, floatWord_bits h', floatWord_msb h', h, if_true]

@[simp] theorem floatValue_infWord (neg : Bool) : floatValue (infWord neg) = .inf neg := by
  cases neg <;> rfl

@[simp] theorem floatValue_nanWord (b : BitVec 24) : floatValue (nanWord b) = .nan := by
  have hlt : b.toNat % 2 ^ 23 < 2 ^ 23 := Nat.mod_lt _ (by decide)
  have h : ∀ f : Nat, f ≠ 0 → f < 2 ^ 23 → floatValue (floatWord b.msb (0x7F800000 + f)) = .nan := by
    intro f h0 h1
    have h' : 0x7F800000 + f < 2 ^ 31 := by omega
    simp only [floatValue, floatWord_bits h']
    rw [if_neg (by omega), if_neg (by omega)]
  unfold nanWord
  simp only
  split
  · exact h _ (by decide) (by decide)
  · exact h _ ‹_› hlt

@[simp] theorem floatValue_resultNaN (op : FloatOp) (x y : Word) : floatValue (resultNaN op x y) = .nan :=
  floatValue_nanWord _

/-- A finite pattern is the pattern of its sign and of a magnitude below infinity. -/
theorem floatValue_fin {x : Word} {neg : Bool} {mag : Nat} (h : floatValue x = .fin neg mag) :
    ∃ bits, bits < 0x7F800000 ∧ x = floatWord neg bits ∧ mag = magnitude bits := by
  unfold floatValue at h
  simp only at h
  split at h
  next hb =>
    cases h
    exact ⟨_, hb, (floatWord_self x).symm, rfl⟩
  next => split at h <;> cases h

theorem floatValue_inf {x : Word} {neg : Bool} (h : floatValue x = .inf neg) : x = infWord neg := by
  unfold floatValue at h
  simp only at h
  split at h
  next => cases h
  next =>
    split at h
    next hb =>
      cases h
      rw [infWord, ← hb, floatWord_self]
    next => cases h

theorem fFinite_iff {x : Word} : fFinite x = true ↔ ∃ neg mag, floatValue x = .fin neg mag := by
  unfold fFinite
  cases h : floatValue x <;> simp

/-! Magnitudes. -/

/-- The unit of a pattern: its exponent step. -/
theorem magnitude_eq {bits : Nat} (h : 2 ^ 23 ≤ bits) :
    magnitude bits = (2 ^ 23 + bits % 2 ^ 23) * 2 ^ (bits / 2 ^ 23 - 1) := by
  have : bits / 2 ^ 23 ≠ 0 := by
    have := Nat.div_le_div_right (c := 2 ^ 23) h
    omega
  rw [magnitude, if_neg this]

theorem magnitude_small {bits : Nat} (h : bits < 2 ^ 23) : magnitude bits = bits := by
  rw [magnitude, if_pos (Nat.div_eq_of_lt h)]

/-- A magnitude written as a mantissa of 24 bits times its step. -/
theorem magnitude_mantissa {e m : Nat} (h1 : e ≠ 0 → 2 ^ 23 ≤ m) (h2 : m < 2 ^ 24) :
    magnitude (e * 2 ^ 23 + m) = m * 2 ^ e := by
  by_cases hm : m < 2 ^ 23
  · have he : e = 0 := by
      by_contra he
      exact absurd (h1 he) (by omega)
    subst he
    simpa using magnitude_small hm
  · have hb : 2 ^ 23 ≤ e * 2 ^ 23 + m := by omega
    have hd : (e * 2 ^ 23 + m) / 2 ^ 23 = e + 1 := by omega
    have hr : (e * 2 ^ 23 + m) % 2 ^ 23 = m - 2 ^ 23 := by omega
    rw [magnitude_eq hb, hd, hr, Nat.add_sub_cancel, show 2 ^ 23 + (m - 2 ^ 23) = m by omega]

/-- Every pattern has such a mantissa. -/
theorem exists_mantissa (bits : Nat) :
    ∃ e m, bits = e * 2 ^ 23 + m ∧ (e ≠ 0 → 2 ^ 23 ≤ m) ∧ m < 2 ^ 24 := by
  by_cases h : bits < 2 ^ 23
  · exact ⟨0, bits, by omega, by omega, by omega⟩
  · exact ⟨bits / 2 ^ 23 - 1, 2 ^ 23 + bits % 2 ^ 23, by omega, by omega, by omega⟩

/-- A greater pattern is a greater magnitude. -/
theorem magnitude_lt {a b : Nat} (h : a < b) : magnitude a < magnitude b := by
  obtain ⟨e, m, rfl, h1, h2⟩ := exists_mantissa a
  obtain ⟨f, n, rfl, h3, h4⟩ := exists_mantissa b
  rw [magnitude_mantissa h1 h2, magnitude_mantissa h3 h4]
  have hef : e ≤ f := by
    by_contra hc
    have := h1 (by omega)
    omega
  obtain ⟨d, rfl⟩ := Nat.exists_eq_add_of_le hef
  rcases Nat.eq_zero_or_pos d with rfl | hd
  · exact Nat.mul_lt_mul_of_pos_right (by omega) (Nat.two_pow_pos _)
  · have hn := h3 (by omega)
    obtain ⟨d', rfl⟩ : ∃ d', d = d' + 1 := ⟨d - 1, by omega⟩
    have hp : 2 ^ (e + (d' + 1)) = 2 ^ d' * (2 * 2 ^ e) := by rw [show e + (d' + 1) = d' + (1 + e) by omega, pow_add, pow_add]; ring
    calc m * 2 ^ e < 2 ^ 24 * 2 ^ e := Nat.mul_lt_mul_of_pos_right h2 (Nat.two_pow_pos _)
      _ = 2 ^ 23 * (1 * (2 * 2 ^ e)) := by ring
      _ ≤ n * (2 ^ d' * (2 * 2 ^ e)) :=
        Nat.mul_le_mul hn (Nat.mul_le_mul_right _ (Nat.one_le_two_pow))
      _ = n * 2 ^ (e + (d' + 1)) := by rw [hp]

theorem magnitude_le {a b : Nat} (h : a ≤ b) : magnitude a ≤ magnitude b := by
  rcases Nat.eq_or_lt_of_le h with rfl | h
  · exact Nat.le_refl _
  · exact Nat.le_of_lt (magnitude_lt h)

theorem magnitude_le_iff {a b : Nat} : magnitude a ≤ magnitude b ↔ a ≤ b := by
  constructor
  · intro h
    by_contra hc
    exact absurd (magnitude_lt (Nat.lt_of_not_le hc)) (by omega)
  · exact magnitude_le

theorem magnitude_lt_iff {a b : Nat} : magnitude a < magnitude b ↔ a < b := by
  rw [← not_iff_not, Nat.not_lt, Nat.not_lt, magnitude_le_iff]

@[simp] theorem magnitude_zero : magnitude 0 = 0 := rfl

theorem magnitude_eq_zero {bits : Nat} : magnitude bits = 0 ↔ bits = 0 := by
  constructor
  · intro h
    by_contra hc
    have := magnitude_lt (Nat.pos_of_ne_zero hc)
    simp at this
    omega
  · rintro rfl
    rfl

/-- Every finite magnitude lies below the position of infinity. -/
theorem magnitude_lt_beyondFinite {bits : Nat} (h : bits < 0x7F800000) : magnitude bits < beyondFinite :=
  Nat.lt_of_le_of_lt (magnitude_le (Nat.le_sub_one_of_lt h)) (by decide)

/-! Rounding. -/

/-- A multiple of the unit is its own rounding. -/
theorem roundHalfEven_exact {m unit : Nat} (hu : 0 < unit) : roundHalfEven (m * unit) unit = m := by
  unfold roundHalfEven
  simp only [Nat.mul_div_cancel _ hu, Nat.mul_mod_left]
  rw [if_neg]
  omega

/-- Rounding to a whole number is monotone. -/
theorem roundHalfEven_mono {a u b w : Nat} (hu : 0 < u) (hw : 0 < w) (h : a * w ≤ b * u) :
    roundHalfEven a u ≤ roundHalfEven b w := by
  have ha := Nat.div_add_mod a u
  have hb := Nat.div_add_mod b w
  have hra := Nat.mod_lt a hu
  have hrb := Nat.mod_lt b hw
  have hm : a / u ≤ b / w := by
    rw [Nat.le_div_iff_mul_le hw]
    by_contra hc
    have h1 : b + 1 ≤ a / u * w := by omega
    have h2 : (b + 1) * u ≤ a / u * w * u := Nat.mul_le_mul_right u h1
    have h3 : a / u * u ≤ a := Nat.div_mul_le_self a u
    have h4 : a / u * u * w ≤ a * w := Nat.mul_le_mul_right w h3
    have h5 : a / u * w * u = a / u * u * w := by ring
    have h6 : (b + 1) * u = b * u + u := by ring
    omega
  unfold roundHalfEven
  simp only
  rcases Nat.lt_or_eq_of_le hm with hlt | heq
  · split <;> split <;> omega
  · have hr : a % u * w ≤ b % w * u := by
      have e1 : a * w = a / u * (u * w) + a % u * w := by
        calc a * w = (u * (a / u) + a % u) * w := by rw [ha]
          _ = _ := by ring
      have e2 : b * u = b / w * (u * w) + b % w * u := by
        calc b * u = (w * (b / w) + b % w) * u := by rw [hb]
          _ = _ := by ring
      rw [heq] at e1
      omega
    rw [heq]
    split
    next hup =>
      rw [if_pos]
      rcases hup with hup | ⟨htie, hodd⟩
      · left
        have h1 : u * w < 2 * (a % u) * w := Nat.mul_lt_mul_of_pos_right hup hw
        have h2 : 2 * (a % u) * w ≤ 2 * (b % w) * u := by
          have := Nat.mul_le_mul_left 2 hr
          calc 2 * (a % u) * w = 2 * (a % u * w) := by ring
            _ ≤ 2 * (b % w * u) := this
            _ = _ := by ring
        have h3 : w * u < 2 * (b % w) * u := by
          calc w * u = u * w := Nat.mul_comm _ _
            _ < _ := Nat.lt_of_lt_of_le h1 h2
        exact Nat.lt_of_mul_lt_mul_right h3
      · have h2 : w * u ≤ 2 * (b % w) * u := by
          calc w * u = 2 * (a % u) * w := by rw [htie]; ring
            _ = 2 * (a % u * w) := by ring
            _ ≤ 2 * (b % w * u) := Nat.mul_le_mul_left 2 hr
            _ = _ := by ring
        have h3 : w ≤ 2 * (b % w) := Nat.le_of_mul_le_mul_right h2 hu
        rcases Nat.lt_or_eq_of_le h3 with h4 | h4
        · exact Or.inl h4
        · exact Or.inr ⟨h4.symm, hodd⟩
    next => split <;> omega

/-- The quotient has at most 24 bits at its exponent step, and 24 where the step is not the least. -/
theorem exponentStep_spec {num den : Nat} (hd : 0 < den) :
    num < 2 ^ 24 * (den * 2 ^ exponentStep num den) ∧
      (exponentStep num den ≠ 0 → 2 ^ 23 * (den * 2 ^ exponentStep num den) ≤ num) := by
  have hq := Nat.div_add_mod num den
  have hr := Nat.mod_lt num hd
  constructor
  · have h1 : num / den < 2 ^ (24 + exponentStep num den) := by
      refine Nat.lt_of_lt_of_le Nat.lt_log2_self (Nat.pow_le_pow_right (by decide) ?_)
      unfold exponentStep
      omega
    calc num < den * (num / den + 1) := by rw [Nat.mul_add]; omega
      _ ≤ den * 2 ^ (24 + exponentStep num den) := Nat.mul_le_mul_left den h1
      _ = _ := by rw [pow_add]; ring
  · intro he
    have h0 : num / den ≠ 0 := by
      intro h0
      apply he
      simp [exponentStep, h0]
    have h1 : 2 ^ (23 + exponentStep num den) ≤ num / den := by
      refine Nat.le_trans (Nat.pow_le_pow_right (by decide) ?_) (Nat.log2_self_le h0)
      unfold exponentStep at he ⊢
      omega
    calc 2 ^ 23 * (den * 2 ^ exponentStep num den) = den * 2 ^ (23 + exponentStep num den) := by rw [pow_add]; ring
      _ ≤ den * (num / den) := Nat.mul_le_mul_left den h1
      _ ≤ num := by omega

theorem exponentStep_mono {a u b w : Nat} (hu : 0 < u) (hw : 0 < w) (h : a * w ≤ b * u) :
    exponentStep a u ≤ exponentStep b w := by
  have hm : a / u ≤ b / w := by
    rw [Nat.le_div_iff_mul_le hw]
    have h3 : a / u * u ≤ a := Nat.div_mul_le_self a u
    have h4 : a / u * u * w ≤ a * w := Nat.mul_le_mul_right w h3
    have h5 : a / u * w * u ≤ b * u := by
      calc a / u * w * u = a / u * u * w := by ring
        _ ≤ _ := Nat.le_trans h4 h
    exact Nat.le_of_mul_le_mul_right h5 hu
  unfold exponentStep
  have : (a / u).log2 ≤ (b / w).log2 := by
    rw [Nat.log2_eq_log_two, Nat.log2_eq_log_two]
    exact Nat.log_mono_right hm
  omega

/-- The mantissa of a rounding: at most 2^24, and at least 2^23 where the step is not the least. -/
theorem roundHalfEven_mantissa {num den : Nat} (hd : 0 < den) :
    roundHalfEven num (den * 2 ^ exponentStep num den) ≤ 2 ^ 24 ∧
      (exponentStep num den ≠ 0 → 2 ^ 23 ≤ roundHalfEven num (den * 2 ^ exponentStep num den)) := by
  obtain ⟨h1, h2⟩ := exponentStep_spec (num := num) hd
  have hu : 0 < den * 2 ^ exponentStep num den := Nat.mul_pos hd (Nat.two_pow_pos _)
  constructor
  · have := roundHalfEven_mono hu Nat.one_pos (a := num) (b := 2 ^ 24) (by omega)
    rwa [show (2 : Nat) ^ 24 = 2 ^ 24 * 1 by omega, roundHalfEven_exact Nat.one_pos] at this
  · intro he
    have := roundHalfEven_mono Nat.one_pos hu (a := 2 ^ 23 * 1) (b := num) (by have := h2 he; omega)
    rwa [roundHalfEven_exact Nat.one_pos] at this

/-- Rounding is monotone (00_scope.md R7). -/
theorem roundMagnitude_mono {a u b w : Nat} (hu : 0 < u) (hw : 0 < w) (h : a * w ≤ b * u) :
    roundMagnitude a u ≤ roundMagnitude b w := by
  have hs := exponentStep_mono hu hw h
  unfold roundMagnitude
  refine Nat.le_trans (min_le_min_right _ ?_) (Nat.le_refl _)
  rcases Nat.lt_or_eq_of_le hs with hlt | heq
  · have h1 := (roundHalfEven_mantissa (num := a) hu).1
    have h2 := (roundHalfEven_mantissa (num := b) hw).2 (by omega)
    omega
  · rw [heq]
    have := roundHalfEven_mono (a := a) (u := u * 2 ^ exponentStep b w) (b := b) (w := w * 2 ^ exponentStep b w)
      (Nat.mul_pos hu (Nat.two_pow_pos _)) (Nat.mul_pos hw (Nat.two_pow_pos _)) (by
        calc a * (w * 2 ^ exponentStep b w) = a * w * 2 ^ exponentStep b w := by ring
          _ ≤ b * u * 2 ^ exponentStep b w := Nat.mul_le_mul_right _ h
          _ = _ := by ring)
    omega

/-- A representable value is its own rounding. -/
theorem roundMagnitude_exact {bits den : Nat} (hd : 0 < den) (h : bits < 0x7F800000) :
    roundMagnitude (magnitude bits * den) den = bits := by
  obtain ⟨e, m, rfl, h1, h2⟩ := exists_mantissa bits
  have hs : exponentStep (magnitude (e * 2 ^ 23 + m) * den) den = e := by
    rw [exponentStep, Nat.mul_div_cancel _ hd, magnitude_mantissa h1 h2]
    rcases Nat.eq_zero_or_pos e with rfl | he
    · have : m.log2 ≤ 23 := by
        rw [Nat.log2_eq_log_two]
        have := Nat.log_lt_of_lt_pow' (b := 2) (x := 24) (y := m) (by decide) h2
        omega
      simp only [pow_zero, Nat.mul_one]
      omega
    · have hm := h1 (by omega)
      have : (m * 2 ^ e).log2 = 23 + e := by
        rw [Nat.log2_eq_log_two, Nat.log_eq_iff (by left; omega)]
        constructor
        · rw [pow_add]
          exact Nat.mul_le_mul_right _ hm
        · rw [show 23 + e + 1 = 24 + e by omega, pow_add]
          exact Nat.mul_lt_mul_of_pos_right h2 (Nat.two_pow_pos _)
      omega
  rw [roundMagnitude, hs, magnitude_mantissa h1 h2,
    show m * 2 ^ e * den = m * (den * 2 ^ e) by ring,
    roundHalfEven_exact (Nat.mul_pos hd (Nat.two_pow_pos _)), Nat.min_eq_left (Nat.le_of_lt h)]

/-- A value at most a representable one rounds to at most it. -/
theorem roundMagnitude_le {num den bits : Nat} (hd : 0 < den) (hb : bits < 0x7F800000)
    (h : num ≤ magnitude bits * den) : roundMagnitude num den ≤ bits := by
  rw [← roundMagnitude_exact hd hb]
  exact roundMagnitude_mono hd hd (Nat.mul_le_mul_right _ h)

/-- A value at least a representable one rounds to at least it. -/
theorem le_roundMagnitude {num den bits : Nat} (hd : 0 < den) (hb : bits < 0x7F800000)
    (h : magnitude bits * den ≤ num) : bits ≤ roundMagnitude num den := by
  rw [← roundMagnitude_exact hd hb]
  exact roundMagnitude_mono hd hd (Nat.mul_le_mul_right _ h)

theorem roundMagnitude_le_inf (num den : Nat) : roundMagnitude num den ≤ 0x7F800000 := min_le_right _ _

@[simp] theorem roundMagnitude_zero {den : Nat} (hd : 0 < den) : roundMagnitude 0 den = 0 := by
  have := roundMagnitude_exact (bits := 0) hd (by decide)
  simpa using this

/-- What a rounding stands for: the magnitude of its pattern, or an infinity. -/
theorem floatValue_roundWord (neg : Bool) (num den : Nat) :
    floatValue (roundWord neg num den) =
      if roundMagnitude num den < 0x7F800000 then .fin neg (magnitude (roundMagnitude num den)) else .inf neg := by
  split
  next h => exact floatValue_floatWord h
  next h =>
    have : roundMagnitude num den = 0x7F800000 := by
      have := roundMagnitude_le_inf num den
      omega
    rw [roundWord, this]
    exact floatValue_infWord neg

/-! The operations on finite operands. -/

variable {x y : Word} {s t : Bool} {m n : Nat}

theorem fAdd_fin (hx : floatValue x = .fin s m) (hy : floatValue y = .fin t n) : fAdd x y = addFinite s m t n := by
  simp [fAdd, hx, hy, addValues]

theorem fSub_fin (hx : floatValue x = .fin s m) (hy : floatValue y = .fin t n) :
    fSub x y = addFinite s m (!t) n := by
  simp [fSub, hx, hy, addValues, negValue]

theorem fMul_fin (hx : floatValue x = .fin s m) (hy : floatValue y = .fin t n) :
    fMul x y = roundWord (s ^^ t) (m * n) (2 ^ 149) := by
  simp [fMul, hx, hy, mulValues]

theorem fDiv_fin (hx : floatValue x = .fin s m) (hy : floatValue y = .fin t n) (h0 : n ≠ 0) :
    fDiv x y = roundWord (s ^^ t) (m * 2 ^ 149) n := by
  simp [fDiv, hx, hy, divValues, h0]

theorem fLt_fin (hx : floatValue x = .fin s m) (hy : floatValue y = .fin t n) :
    fLt x y = decide (signedUnits s m < signedUnits t n) := by
  simp [fLt, hx, hy, position]

theorem fLe_fin (hx : floatValue x = .fin s m) (hy : floatValue y = .fin t n) :
    fLe x y = decide (signedUnits s m ≤ signedUnits t n) := by
  simp [fLe, hx, hy, position]

/-- Less than excludes at least. -/
theorem fLt_not_fLe (h : fLt x y = true) : fLe y x = false := by
  unfold fLt at h
  unfold fLe
  cases hx : position (floatValue x) <;> cases hy : position (floatValue y) <;> simp [hx, hy] at h ⊢
  exact h

theorem fLt_fLe (h : fLt x y = true) : fLe x y = true := by
  unfold fLt at h
  unfold fLe
  cases hx : position (floatValue x) <;> cases hy : position (floatValue y) <;> simp [hx, hy] at h ⊢
  omega

theorem fLe_trans {z : Word} (h : fLe x y = true) (h' : fLe y z = true) : fLe x z = true := by
  unfold fLe at *
  cases hx : position (floatValue x) <;> cases hy : position (floatValue y) <;>
    cases hz : position (floatValue z) <;> simp [hx, hy, hz] at *
  omega

/-- A NaN operand makes the product the free NaN. -/
theorem fMul_nan (hx : floatValue x = .nan) : fMul x y = resultNaN .mul x y := by
  simp [fMul, hx, mulValues]

/-- A value between two finite values is finite. -/
theorem fFinite_of_between {a b : Word} (ha : fFinite a = true) (hb : fFinite b = true) (h : fLe a x = true)
    (h' : fLe x b = true) : fFinite x = true := by
  obtain ⟨s, m, ha⟩ := fFinite_iff.mp ha
  obtain ⟨t, n, hb⟩ := fFinite_iff.mp hb
  have hm : m < beyondFinite := by
    obtain ⟨bits, hlt, -, rfl⟩ := floatValue_fin ha
    exact magnitude_lt_beyondFinite hlt
  have hn : n < beyondFinite := by
    obtain ⟨bits, hlt, -, rfl⟩ := floatValue_fin hb
    exact magnitude_lt_beyondFinite hlt
  unfold fFinite
  cases hx : floatValue x with
  | nan => simp [fLe, ha, hx, position] at h
  | fin => rfl
  | inf neg =>
    simp only [fLe, ha, hb, hx, position, decide_eq_true_eq] at h h'
    unfold signedUnits at h h'
    cases neg <;> cases s <;> cases t <;> simp at h h' <;> omega

end Sys2Proof.Machine
end

