-- ==== Sys2Proof/Laws/Frames.lean ====
section
/-! SUPPORT. What the envelope, the filter, the render of a voice and a register write leave alone. -/

namespace Sys2Proof.Machine

variable {n : Numerics} {p : Params} {g : Settings} {v v' : Voice}

/-- A note-on writes key, velocity and elapsed count. -/
theorem keyOnVoice_written {pk vel : BitVec 7} (h : keyOnVoice n p g pk vel v = .ok v') :
    v'.key = pk ∧ v'.vel = vel ∧ v'.elapsed = 0 := by
  unfold keyOnVoice envKeyOn at h
  split at h
  · split at h
    · cases h
    · split at h <;> cases h; simp
  · cases h; simp

/-- `EnvKeyOff` writes the envelope state and the multiplier alone. -/
theorem envKeyOff_frame (h : envKeyOff n p g v = .ok v') : ∃ e m, v' = { v with env := e, mult := m } := by
  unfold envKeyOff at h
  split at h
  · split at h <;> cases h
    exact ⟨_, _, rfl⟩
  · cases h; exact ⟨v.env, v.mult, rfl⟩

/-- `EnvKeyOn` writes the envelope state, the level and the multiplier alone. -/
theorem envKeyOn_frame (h : envKeyOn n p g v = .ok v') : ∃ e l m, v' = { v with env := e, level := l, mult := m } := by
  unfold envKeyOn at h
  split at h
  · split at h
    · cases h
    · split at h <;> cases h
      exact ⟨_, _, _, rfl⟩
  · cases h; exact ⟨v.env, v.level, v.mult, rfl⟩

theorem attackEnd_frame (h : attackEnd n p g v = .ok v') : ∃ l m e, v' = { v with level := l, mult := m, env := e } := by
  unfold attackEnd at h
  split at h
  · cases h
  · split at h
    · cases h
    · split at h <;> cases h
      exact ⟨_, _, _, rfl⟩

/-- The envelope step writes level, multiplier, envelope state and phase alone. -/
theorem envAdvance_frame (h : envAdvance n p g v = .ok v') :
    ∃ l m e ph, v' = { v with level := l, mult := m, env := e, phase := ph } := by
  unfold envAdvance at h
  simp only at h
  split at h
  · split at h
    · obtain ⟨l, m, e, rfl⟩ := attackEnd_frame h; exact ⟨l, m, e, v.phase, rfl⟩
    · cases h; exact ⟨_, v.mult, v.env, v.phase, rfl⟩
  · split at h <;> cases h
    · exact ⟨_, _, _, v.phase, rfl⟩
    · exact ⟨_, v.mult, v.env, v.phase, rfl⟩
  · cases h; exact ⟨v.level, v.mult, v.env, v.phase, rfl⟩
  · split at h <;> cases h
    · exact ⟨_, v.mult, _, _, rfl⟩
    · exact ⟨_, v.mult, v.env, v.phase, rfl⟩
  · cases h; exact ⟨v.level, v.mult, v.env, v.phase, rfl⟩

/-- The filter step writes the state of the selected topology alone. -/
theorem filterStep_frame (n : Numerics) (p : Params) (g : Settings) (v : Voice) (x : Word) :
    ∃ a b c d e f, (filterStep n p g v x).1 = { v with x1 := a, x2 := b, y1 := c, y2 := d, low := e, band := f } ∧
      (g.ctrl.topo = .biquad → e = v.low ∧ f = v.band) ∧
      (g.ctrl.topo = .stateVariable → a = v.x1 ∧ b = v.x2 ∧ c = v.y1 ∧ d = v.y2) := by
  unfold filterStep
  cases g.ctrl.topo
  · exact ⟨_, _, _, _, v.low, v.band, rfl, by simp, by simp⟩
  · exact ⟨v.x1, v.x2, v.y1, v.y2, _, _, rfl, by simp, by simp⟩

/-- What a voice's sample leaves alone; a voice that is off is left alone whole and answers +0.0. -/
theorem voiceSample_frame {y : Word} (h : voiceSample n p g v = .ok (v', y)) :
    v'.key = v.key ∧ v'.vel = v.vel ∧ v'.elapsed = v.elapsed ∧ v'.inc = v.inc ∧ (v.env = .off → v' = v ∧ y = 0) ∧
      (g.ctrl.topo = .biquad → v'.low = v.low ∧ v'.band = v.band) ∧
      (g.ctrl.topo = .stateVariable → v'.x1 = v.x1 ∧ v'.x2 = v.x2 ∧ v'.y1 = v.y1 ∧ v'.y2 = v.y2) := by
  unfold voiceSample envStep at h
  split at h
  · cases h; simp
  next hoff =>
    simp only at h
    split at h
    · cases h
    next hh =>
      cases h
      obtain ⟨l, m, e, ph, rfl⟩ := envAdvance_frame hh
      obtain ⟨a, b, c, d, e, f, he, h1, h2⟩ := filterStep_frame n p g (oscAdvance v) (oscOut n g.ctrl.waveform v.phase)
      simp [he]
      exact ⟨fun h => absurd h hoff, h1, h2⟩

/-! The configuration registers. -/

/-- A register that reads a value after a legal write of another (or the same) one reads a legal value or what it
read before. -/
theorem read_write_legal {c : ConfigRegs} {r r' : CfgReg} {d w : Word} (hl : legalValue p r d = true)
    (h : (c.write r d).read r' = some w) : (r' = r ∧ legalValue p r w = true) ∨ c.read r' = some w := by
  cases r <;> cases r' <;> simp [ConfigRegs.write, ConfigRegs.read] at h ⊢ <;>
    try (first | exact h | (subst h; left; exact hl))
  left
  obtain ⟨a, ha, rfl⟩ := h
  have : ∀ c : Ctrl, (ctrlOf (ctrlWord c)).isSome = true := by rintro ⟨⟨⟩, ⟨⟩, ⟨⟩⟩ <;> decide
  exact this a

end Sys2Proof.Machine
end

