-- ==== Sys2Proof/Laws/PerInstr.lean ====
section
/-! SUPPORT. The per-instruction family: each well-formed operation's word stands in the format its tag names
(30_encoding.md R32), one lemma per constructor. -/

namespace Sys2Proof.Laws

open Sys2Proof

/-- A `CMD` word of R32: tag 00 and bits [40:24] all 0. -/
theorem encodeCommand_format (c : Command) :
    tagField (encodeCommand c) = 0b00#2 ∧ mustBeZeroViolated (encodeCommand c) = false := by
  have hc := c.isLt
  have hn : (encodeCommand c).toNat = c.toNat := by
    have h : (encodeCommand c).toNat = ((0#19 : BitVec 19) ++ c).toNat := rfl
    rw [h, BitVec.toNat_append]
    simp
  have h1 : tagField (encodeCommand c) = 0b00#2 := by
    apply BitVec.eq_of_toNat_eq
    simp only [tagField, BitVec.extractLsb'_toNat, hn, Nat.shiftRight_eq_div_pow, BitVec.toNat_ofNat]
    omega
  have h2 : (encodeCommand c).extractLsb' 24 17 = 0#17 := by
    apply BitVec.eq_of_toNat_eq
    simp only [BitVec.extractLsb'_toNat, hn, Nat.shiftRight_eq_div_pow, BitVec.toNat_ofNat]
    omega
  exact ⟨h1, by simp [mustBeZeroViolated, h1, h2]⟩

/-- The number of a `CFG` word of R32. -/
theorem encodeCfg_toNat (rw : BitVec 1) (addr : BitVec 8) (data : Word) :
    (0b10#2 ++ rw ++ addr ++ data : OpWord).toNat =
      2 * 2 ^ 41 + rw.toNat * 2 ^ 40 + addr.toNat * 2 ^ 32 + data.toNat := by
  have h : (0b10#2 ++ rw ++ addr ++ data : OpWord).toNat = (((0b10#2 ++ rw) ++ addr) ++ data).toNat := rfl
  have h1 := rw.isLt
  have h2 := addr.isLt
  have h3 := data.isLt
  rw [h]
  simp only [BitVec.toNat_append]
  rw [← Nat.shiftLeft_add_eq_or_of_lt h1, ← Nat.shiftLeft_add_eq_or_of_lt h2, ← Nat.shiftLeft_add_eq_or_of_lt h3]
  simp only [Nat.shiftLeft_eq, BitVec.toNat_ofNat]
  omega

/-- What R32 asks of the word of an instruction. -/
def FormatTag.Holds (i : Instr) : Prop :=
  match i with
  | .illegalOpword _ => mustBeZeroViolated (encode i) = true
  | .illegalNoStatus _ _ _ _ => tagField (encode i) = 0b00#2 ∧ mustBeZeroViolated (encode i) = false
  | .illegalChannelPressure _ _ _ => tagField (encode i) = 0b00#2 ∧ mustBeZeroViolated (encode i) = false
  | .illegalSystem _ _ _ => tagField (encode i) = 0b00#2 ∧ mustBeZeroViolated (encode i) = false
  | .illegalData1 _ _ _ _ => tagField (encode i) = 0b00#2 ∧ mustBeZeroViolated (encode i) = false
  | .programChange _ _ _ => tagField (encode i) = 0b00#2 ∧ mustBeZeroViolated (encode i) = false
  | .illegalData2 _ _ _ _ => tagField (encode i) = 0b00#2 ∧ mustBeZeroViolated (encode i) = false
  | .noteOnVel0 _ _ => tagField (encode i) = 0b00#2 ∧ mustBeZeroViolated (encode i) = false
  | .ccVolume _ _ => tagField (encode i) = 0b00#2 ∧ mustBeZeroViolated (encode i) = false
  | .ccPan _ _ => tagField (encode i) = 0b00#2 ∧ mustBeZeroViolated (encode i) = false
  | .ccIgnored1 _ _ => tagField (encode i) = 0b00#2 ∧ mustBeZeroViolated (encode i) = false
  | .ccIgnored64 _ _ => tagField (encode i) = 0b00#2 ∧ mustBeZeroViolated (encode i) = false
  | .ccIgnored91 _ _ => tagField (encode i) = 0b00#2 ∧ mustBeZeroViolated (encode i) = false
  | .ccIgnored92 _ _ => tagField (encode i) = 0b00#2 ∧ mustBeZeroViolated (encode i) = false
  | .ccIgnored93 _ _ => tagField (encode i) = 0b00#2 ∧ mustBeZeroViolated (encode i) = false
  | .ccIgnored94 _ _ => tagField (encode i) = 0b00#2 ∧ mustBeZeroViolated (encode i) = false
  | .ccIgnored95 _ _ => tagField (encode i) = 0b00#2 ∧ mustBeZeroViolated (encode i) = false
  | .noteOff _ _ _ => tagField (encode i) = 0b00#2 ∧ mustBeZeroViolated (encode i) = false
  | .noteOn _ _ _ => tagField (encode i) = 0b00#2 ∧ mustBeZeroViolated (encode i) = false
  | .polyPressure _ _ _ => tagField (encode i) = 0b00#2 ∧ mustBeZeroViolated (encode i) = false
  | .ccUnhandled _ _ _ => tagField (encode i) = 0b00#2 ∧ mustBeZeroViolated (encode i) = false
  | .pitchBend _ _ _ => tagField (encode i) = 0b00#2 ∧ mustBeZeroViolated (encode i) = false
  | .pull => tagField (encode i) = 0b01#2 ∧ mustBeZeroViolated (encode i) = false
  | .cfgWr _ _ => tagField (encode i) = 0b10#2 ∧ rwField (encode i) = 1#1 ∧ mustBeZeroViolated (encode i) = false
  | .cfgRd _ => tagField (encode i) = 0b10#2 ∧ rwField (encode i) = 0#1 ∧ mustBeZeroViolated (encode i) = false
  | .reset => tagField (encode i) = 0b11#2 ∧ mustBeZeroViolated (encode i) = false

/-- The family's statement: a well-formed instruction's word has the format of R32. -/
def FormatTag.Statement (i : Instr) : Prop := i.wellFormed = true → FormatTag.Holds i

theorem FormatTag.illegalOpword (w : OpWord) : FormatTag.Statement (.illegalOpword w) := fun h => h

theorem FormatTag.illegalNoStatus (op : BitVec 3) (ch : BitVec 4) (d1 : BitVec 8) (d2 : BitVec 8) :
    FormatTag.Statement (.illegalNoStatus op ch d1 d2) := fun _ => encodeCommand_format _

theorem FormatTag.illegalChannelPressure (ch : BitVec 4) (d1 : BitVec 8) (d2 : BitVec 8) :
    FormatTag.Statement (.illegalChannelPressure ch d1 d2) := fun _ => encodeCommand_format _

theorem FormatTag.illegalSystem (ch : BitVec 4) (d1 : BitVec 8) (d2 : BitVec 8) :
    FormatTag.Statement (.illegalSystem ch d1 d2) := fun _ => encodeCommand_format _

theorem FormatTag.illegalData1 (op : BitVec 4) (ch : BitVec 4) (d1 : BitVec 7) (d2 : BitVec 8) :
    FormatTag.Statement (.illegalData1 op ch d1 d2) := fun _ => encodeCommand_format _

theorem FormatTag.programChange (ch : BitVec 4) (prog : BitVec 7) (d2 : BitVec 8) :
    FormatTag.Statement (.programChange ch prog d2) := fun _ => encodeCommand_format _

theorem FormatTag.illegalData2 (op : BitVec 4) (ch : BitVec 4) (d1 : BitVec 7) (d2 : BitVec 7) :
    FormatTag.Statement (.illegalData2 op ch d1 d2) := fun _ => encodeCommand_format _

theorem FormatTag.noteOnVel0 (ch : BitVec 4) (note : BitVec 7) :
    FormatTag.Statement (.noteOnVel0 ch note) := fun _ => encodeCommand_format _

theorem FormatTag.ccVolume (ch : BitVec 4) (val : BitVec 7) :
    FormatTag.Statement (.ccVolume ch val) := fun _ => encodeCommand_format _

theorem FormatTag.ccPan (ch : BitVec 4) (val : BitVec 7) :
    FormatTag.Statement (.ccPan ch val) := fun _ => encodeCommand_format _

theorem FormatTag.ccIgnored1 (ch : BitVec 4) (val : BitVec 7) :
    FormatTag.Statement (.ccIgnored1 ch val) := fun _ => encodeCommand_format _

theorem FormatTag.ccIgnored64 (ch : BitVec 4) (val : BitVec 7) :
    FormatTag.Statement (.ccIgnored64 ch val) := fun _ => encodeCommand_format _

theorem FormatTag.ccIgnored91 (ch : BitVec 4) (val : BitVec 7) :
    FormatTag.Statement (.ccIgnored91 ch val) := fun _ => encodeCommand_format _

theorem FormatTag.ccIgnored92 (ch : BitVec 4) (val : BitVec 7) :
    FormatTag.Statement (.ccIgnored92 ch val) := fun _ => encodeCommand_format _

theorem FormatTag.ccIgnored93 (ch : BitVec 4) (val : BitVec 7) :
    FormatTag.Statement (.ccIgnored93 ch val) := fun _ => encodeCommand_format _

theorem FormatTag.ccIgnored94 (ch : BitVec 4) (val : BitVec 7) :
    FormatTag.Statement (.ccIgnored94 ch val) := fun _ => encodeCommand_format _

theorem FormatTag.ccIgnored95 (ch : BitVec 4) (val : BitVec 7) :
    FormatTag.Statement (.ccIgnored95 ch val) := fun _ => encodeCommand_format _

theorem FormatTag.noteOff (ch : BitVec 4) (note : BitVec 7) (vel : BitVec 7) :
    FormatTag.Statement (.noteOff ch note vel) := fun _ => encodeCommand_format _

theorem FormatTag.noteOn (ch : BitVec 4) (note : BitVec 7) (vel : BitVec 7) :
    FormatTag.Statement (.noteOn ch note vel) := fun _ => encodeCommand_format _

theorem FormatTag.polyPressure (ch : BitVec 4) (note : BitVec 7) (pressure : BitVec 7) :
    FormatTag.Statement (.polyPressure ch note pressure) := fun _ => encodeCommand_format _

theorem FormatTag.ccUnhandled (ch : BitVec 4) (cc : BitVec 7) (val : BitVec 7) :
    FormatTag.Statement (.ccUnhandled ch cc val) := fun _ => encodeCommand_format _

theorem FormatTag.pitchBend (ch : BitVec 4) (lsb : BitVec 7) (msb : BitVec 7) :
    FormatTag.Statement (.pitchBend ch lsb msb) := fun _ => encodeCommand_format _

theorem FormatTag.pull : FormatTag.Statement .pull := fun _ => ⟨by decide, by decide⟩

theorem FormatTag.cfgWr (addr : BitVec 8) (data : Word) : FormatTag.Statement (.cfgWr addr data) := fun _ => by
  have hn := encodeCfg_toNat 1#1 addr data
  have ha := addr.isLt
  have hd := data.isLt
  have h1 : tagField (encode (.cfgWr addr data)) = 0b10#2 := by
    apply BitVec.eq_of_toNat_eq
    simp only [tagField, encode, BitVec.extractLsb'_toNat, hn, Nat.shiftRight_eq_div_pow, BitVec.toNat_ofNat]
    omega
  have h2 : rwField (encode (.cfgWr addr data)) = 1#1 := by
    apply BitVec.eq_of_toNat_eq
    simp only [rwField, encode, BitVec.extractLsb'_toNat, hn, Nat.shiftRight_eq_div_pow, BitVec.toNat_ofNat]
    omega
  exact ⟨h1, h2, by simp [mustBeZeroViolated, h1, h2]⟩

theorem FormatTag.cfgRd (addr : BitVec 8) : FormatTag.Statement (.cfgRd addr) := by
  revert addr
  unfold FormatTag.Statement FormatTag.Holds
  decide

theorem FormatTag.reset : FormatTag.Statement .reset := fun _ => ⟨by decide, by decide⟩

end Sys2Proof.Laws
end

