-- ==== Sys2Proof/Laws/Selection.lean ====
section
/-! SUPPORT. Voice selection and the ramp multiplier (40_channel_commands.md R46, 42_envelope.md R63). -/

namespace Sys2Proof.Machine

/-- What `find?` answers on an ascending list is the lowest slot of its kind. -/
theorem find?_is_lowest {l : List Slot} {q : Slot → Bool} {i : Slot} (hl : l.Pairwise (· < ·))
    (h : l.find? q = some i) :
    ∀ j ∈ l, j < i → q j = false := by
  induction l with
  | nil => cases h
  | cons a l ih =>
    rw [List.pairwise_cons] at hl
    rw [List.find?_cons] at h
    split at h
    · cases h
      intro j hj hji
      rcases List.mem_cons.mp hj with rfl | hj
      · exact absurd hji (lt_irrefl _)
      · exact absurd (hl.1 j hj) (lt_asymm hji)
    next hq =>
      intro j hj hji
      rcases List.mem_cons.mp hj with rfl | hj
      · simpa using hq
      · exact ih hl.2 h j hj hji

/-- The slots stand in ascending order. -/
theorem slots_ascending : slots.Pairwise (· < ·) := by unfold slots; decide

/-- No elapsed count is above the greatest (40_channel_commands.md R46). -/
theorem elapsed_le_maxElapsed (s : State) (i : Slot) : (s.voice i).elapsed.toNat ≤ maxElapsed s := by
  have H : ∀ (l : List Slot) (m : Nat), m ≤ l.foldl (fun m i => max m (s.voice i).elapsed.toNat) m ∧
      ∀ i ∈ l, (s.voice i).elapsed.toNat ≤ l.foldl (fun m i => max m (s.voice i).elapsed.toNat) m := by
    intro l
    induction l with
    | nil => intro m; simp
    | cons a l ih =>
      intro m
      obtain ⟨h1, h2⟩ := ih (max m (s.voice a).elapsed.toNat)
      refine ⟨by simp only [List.foldl_cons]; omega, ?_⟩
      intro i hi
      rcases List.mem_cons.mp hi with rfl | hi
      · simp only [List.foldl_cons]; omega
      · exact h2 i hi
  exact (H slots 0).2 i (mem_slots i)

/-- Some slot has the greatest elapsed count. -/
theorem exists_elapsed_eq_maxElapsed (s : State) : ∃ i, (s.voice i).elapsed.toNat = maxElapsed s := by
  have H : ∀ (l : List Slot) (m : Nat), l.foldl (fun m i => max m (s.voice i).elapsed.toNat) m = m ∨
      ∃ i, (s.voice i).elapsed.toNat = l.foldl (fun m i => max m (s.voice i).elapsed.toNat) m := by
    intro l
    induction l with
    | nil => intro m; simp
    | cons a l ih =>
      intro m
      rcases ih (max m (s.voice a).elapsed.toNat) with h | h
      · simp only [List.foldl_cons]
        rw [h]
        rcases le_total m (s.voice a).elapsed.toNat with h' | h'
        · right; exact ⟨a, by omega⟩
        · left; omega
      · right; exact h
  rcases H slots 0 with h | h
  · refine ⟨0, ?_⟩
    have := elapsed_le_maxElapsed s 0
    unfold maxElapsed at *
    omega
  · exact h

/-- The stolen slot is the lowest of those with the greatest elapsed count (40_channel_commands.md R46). -/
theorem stealSlot_is_lowest_greatest (s : State) :
    (s.voice (stealSlot s)).elapsed.toNat = maxElapsed s ∧
      ∀ j, j < stealSlot s → (s.voice j).elapsed.toNat ≠ maxElapsed s := by
  unfold stealSlot
  cases h : slots.find? fun i => (s.voice i).elapsed.toNat == maxElapsed s with
  | none =>
    obtain ⟨i, hi⟩ := exists_elapsed_eq_maxElapsed s
    have := List.find?_eq_none.mp h i (mem_slots i)
    simp [hi] at this
  | some i =>
    have h1 := List.find?_some h
    refine ⟨by simpa using h1, ?_⟩
    intro j hj
    have := find?_is_lowest slots_ascending h j (mem_slots j) hj
    simpa using this

/-- A finite positive multiplier is what `RampMult` answers (42_envelope.md R63). -/
theorem rampMult_ok {n : Numerics} {p a b t m}
    (hm : m = fAdd 0x3F800000#32 (fDiv (fSub (n.ln b) (n.ln a)) (fMul t (rateWord p))))
    (h : fFinite m = true ∧ fLt 0 m = true) :
    rampMult n p a b t = .ok m := by
  subst hm; unfold rampMult; simp only; rw [if_pos (by simpa using h)]

/-- Any other raises Fault(ENV_PARAM) (42_envelope.md R63). -/
theorem rampMult_error {n : Numerics} {p a b t m}
    (hm : m = fAdd 0x3F800000#32 (fDiv (fSub (n.ln b) (n.ln a)) (fMul t (rateWord p))))
    (h : ¬(fFinite m = true ∧ fLt 0 m = true)) :
    rampMult n p a b t = .error .envParam := by
  subst hm; unfold rampMult; simp only; rw [if_neg (by simpa using h)]

end Sys2Proof.Machine
end

