-- ==== Sys2Proof/Machine/Reference.lean ====
section
/-! DEFINITION. The reference choices of the OPEN functions (43_primitives.md R75, R77). The
machine never assumes one of them (R75: "A model must not assume the reference instance holds for the chip"); the
tests run under them. -/

namespace Sys2Proof.Machine

/-- The reference `SVF_F`: `2.0 * SIN((PI * fc) / R)`, in binary32, over a given `SIN` (43_primitives.md R77). -/
def referenceSvfF (sin : Word → Word) (fc rate : Word) : Word :=
  fMul 0x40000000#32 (sin (fDiv (fMul 0x40490FDB#32 fc) rate))

/-- The reference `SVF_Q`: `1.0 / res` (43_primitives.md R77). -/
def referenceSvfQ (res : Word) : Word := fDiv 0x3F800000#32 res

/-- The real number a finite binary32 stands for. -/
def standsFor (x : Word) (r : ℝ) : Prop :=
  ∃ neg mag, floatValue x = .fin neg mag ∧ r = (signedUnits neg mag : ℝ) / 2 ^ 149

/-- `x` is a finite binary32 nearest to `r`, the even one of two equally near. -/
def roundsTo (r : ℝ) (x : Word) : Prop :=
  ∃ v, standsFor x v ∧
    ∀ y w, standsFor y w → |v - r| ≤ |w - r| ∧ (|v - r| = |w - r| → w = v ∨ x.getLsbD 0 = false)

/-- The five coefficients, each the rounding of a real number. -/
def coefficientsRound (c : BqCoeffs) (a0 a1 a2 b1 b2 : ℝ) : Prop :=
  roundsTo a0 c.a0 ∧ roundsTo a1 c.a1 ∧ roundsTo a2 c.a2 ∧ roundsTo b1 c.b1 ∧ roundsTo b2 c.b2

/-- The low-pass or high-pass section, with `s` the sign of `a1 / a0` and `t` that of `b1`'s factor
(43_primitives.md R75). -/
def butterworthSection (co : BqCoeffs) (c s t : ℝ) : Prop :=
  coefficientsRound co (1 / (1 + Real.sqrt 2 * c + c ^ 2)) (s * 2 * (1 / (1 + Real.sqrt 2 * c + c ^ 2)))
    (1 / (1 + Real.sqrt 2 * c + c ^ 2)) (2 * (1 / (1 + Real.sqrt 2 * c + c ^ 2)) * (t * (1 - c ^ 2)))
    ((1 / (1 + Real.sqrt 2 * c + c ^ 2)) * (1 - Real.sqrt 2 * c + c ^ 2))

/-- The reference `BQ_COEFFS` (43_primitives.md R75), over the real values `fc` and `rate` of its arguments. -/
def isReferenceBqCoeffs (f : FilterType → Word → Word → BqCoeffs) : Prop :=
  ∀ x y fc rate, standsFor x fc → standsFor y rate →
    butterworthSection (f .lowPass x y) (1 / Real.tan (Real.pi * fc / rate)) 1 1 ∧
    butterworthSection (f .highPass x y) (Real.tan (Real.pi * fc / rate)) (-1) (-1) ∧
    coefficientsRound (f .bandPass x y)
      (Real.sin (2 * Real.pi * fc / rate) / Real.sqrt 2 * (1 / (1 + Real.sin (2 * Real.pi * fc / rate) / Real.sqrt 2)))
      0
      (-(Real.sin (2 * Real.pi * fc / rate) / Real.sqrt 2) * (1 / (1 + Real.sin (2 * Real.pi * fc / rate) / Real.sqrt 2)))
      (-2 * Real.cos (2 * Real.pi * fc / rate) * (1 / (1 + Real.sin (2 * Real.pi * fc / rate) / Real.sqrt 2)))
      ((1 - Real.sin (2 * Real.pi * fc / rate) / Real.sqrt 2) * (1 / (1 + Real.sin (2 * Real.pi * fc / rate) / Real.sqrt 2)))

end Sys2Proof.Machine
end

