-- ==== Sys2Proof/Tests/Slice0.lean ====
section
/-! SUPPORT. Tests: the refusals of WellFormed, words written out from 30_encoding.md, vectors of
95_test_vectors.md, and a witness for the hypotheses of every statement. -/

namespace Sys2Proof.Tests

open Sys2Proof Sys2Proof.Machine

-- One declaration after the other: evaluations by the kernel that wait for each other would hold a thread each.
set_option Elab.async false

/-! WellFormed: one ill-formed term for each check, refused; and a well-formed neighbour. -/

/-- 30_encoding.md R41: a word with every must-be-0 bit 0 is no ILLEGAL_OPWORD. -/
theorem test_wf_opword : Instr.wellFormed (.illegalOpword 0x20000000000) = false ∧
    Instr.wellFormed (.illegalOpword 0x20000000001) = true := by decide

/-- R41: OP = 0xD is ILLEGAL_CHANNEL_PRESSURE before its data bytes are looked at. -/
theorem test_wf_data1 : Instr.wellFormed (.illegalData1 0xD 0 5 0) = false ∧
    Instr.wellFormed (.illegalData1 0xF 0 5 0) = false ∧ Instr.wellFormed (.illegalData1 0x7 0 5 0) = false ∧
    Instr.wellFormed (.illegalData1 0xC 0 5 0) = true := by decide

/-- R41: the second data byte of OP = 0xC is never checked. -/
theorem test_wf_data2 : Instr.wellFormed (.illegalData2 0xC 0 5 0) = false ∧
    Instr.wellFormed (.illegalData2 0xF 0 5 0) = false ∧ Instr.wellFormed (.illegalData2 0x8 0 69 64) = true := by
  decide

/-- R39 step 6: velocity 0 is NOTE_ON_VEL0. -/
theorem test_wf_noteOn : Instr.wellFormed (.noteOn 0 69 0) = false ∧ Instr.wellFormed (.noteOn 0 69 1) = true := by
  decide

/-- R39 step 7: controllers 7, 10 and 95 have rows of their own. -/
theorem test_wf_ccUnhandled : Instr.wellFormed (.ccUnhandled 0 7 5) = false ∧
    Instr.wellFormed (.ccUnhandled 0 10 5) = false ∧ Instr.wellFormed (.ccUnhandled 0 95 5) = false ∧
    Instr.wellFormed (.ccUnhandled 0 11 5) = true := by decide

/-! Decoding: every constructor, from a word of 95_test_vectors.md section 2 or written out from 30_encoding.md R32
and R33. -/

/-- Section 2, and R41: ILLEGAL_OPWORD from each tag. -/
theorem test_decode_illegalOpword :
    decode 0x00001904564 = .illegalOpword 0x00001904564 ∧ decode 0x20000000001 = .illegalOpword 0x20000000001 ∧
    decode 0x41000000001 = .illegalOpword 0x41000000001 ∧ decode 0x70000000000 = .illegalOpword 0x70000000000 := by
  decide

/-- Section 2: C[23] = 0. C = 0|000|0000|01000101|01100100. -/
theorem test_decode_illegalNoStatus :
    decode 0b0000000000000000000000000000000100010101100100 = .illegalNoStatus 0 0 0x45 0x64 := by decide

/-- Section 2. C = 1101|0000|01000000|00000000. -/
theorem test_decode_illegalChannelPressure :
    decode 0b110100000100000000000000 = .illegalChannelPressure 0 0x40 0 := by decide

/-- Section 2. -/
theorem test_decode_illegalSystem : decode 0x00000F00000 = .illegalSystem 0 0 0 := by decide

/-- Section 2: note byte 0xC5. C = 1001|0000|11000101|01100100. -/
theorem test_decode_illegalData1 : decode 0b100100001100010101100100 = .illegalData1 9 0 0x45 0x64 := by decide

/-- Section 2: a second data byte is never checked. -/
theorem test_decode_programChange : decode 0x00000C005FF = .programChange 0 5 0xFF := by decide

/-- Section 2: velocity byte 0x80, release velocity 0xC0. -/
theorem test_decode_illegalData2 : decode 0x00000904580 = .illegalData2 9 0 0x45 0 ∧
    decode 0x000008045C0 = .illegalData2 8 0 0x45 0x40 := by decide

/-- Section 2: `NOTE_ON 3, 69, 0`. -/
theorem test_decode_noteOnVel0 : decode 0x00000934500 = .noteOnVel0 3 69 := by decide

/-- Section 2: `CC 0, 7, 100`. C = 1011|0000|0|0000111|0|1100100. -/
theorem test_decode_ccVolume : decode 0b101100000000011101100100 = .ccVolume 0 100 := by decide

/-- Section 2: `CC 0, 10, 127`. -/
theorem test_decode_ccPan : decode 0x00000B00A7F = .ccPan 0 127 := by decide

/-- R40: the allow-list, one row per number; C = {0xB, 2, 0, num, 0, 3}. -/
theorem test_decode_ccIgnored :
    decode 0x00000B20103 = .ccIgnored1 2 3 ∧ decode 0x00000B24003 = .ccIgnored64 2 3 ∧
    decode 0x00000B25B03 = .ccIgnored91 2 3 ∧ decode 0x00000B25C03 = .ccIgnored92 2 3 ∧
    decode 0x00000B25D03 = .ccIgnored93 2 3 ∧ decode 0x00000B25E03 = .ccIgnored94 2 3 ∧
    decode 0x00000B25F03 = .ccIgnored95 2 3 := by decide

/-- Section 2: `NOTE_OFF 0, 69, 64`. -/
theorem test_decode_noteOff : decode 0x00000804540 = .noteOff 0 69 64 := by decide

/-- Section 2: `NOTE_ON 0, 69, 100`. C = 1001|0000|0|1000101|0|1100100. -/
theorem test_decode_noteOn : decode 0b100100000100010101100100 = .noteOn 0 69 100 := by decide

/-- Section 2: `POLY_PRESSURE 0, 69, 10`. -/
theorem test_decode_polyPressure : decode 0x00000A0450A = .polyPressure 0 69 10 := by decide

/-- Section 2: `CC 0, 11, 5`. -/
theorem test_decode_ccUnhandled : decode 0x00000B00B05 = .ccUnhandled 0 11 5 := by decide

/-- R37: `D1` is the low half. C = 1110|0101|0|0000001|0|1000000: raw14 = {0x40, 0x01}. -/
theorem test_decode_pitchBend : decode 0b111001010000000101000000 = .pitchBend 5 1 0x40 := by decide

/-- R32: tag 01, all other bits 0. -/
theorem test_decode_pull : decode 0x20000000000 = .pull := by decide

/-- R32: W = 10|1|00000001|0x3F800000. -/
theorem test_decode_cfgWr :
    decode 0b1010000000100111111100000000000000000000000 = .cfgWr 0x01 0x3F800000 := by decide

/-- R32: W = 10|0|10101010|0. -/
theorem test_decode_cfgRd : decode 0b1001010101000000000000000000000000000000000 = .cfgRd 0xAA := by decide

/-- R32: tag 11, all other bits 0. -/
theorem test_decode_reset : decode 0x60000000000 = .reset := by decide

/-- R32: an operation word has 43 bits; a wider number is rejected by name (log 9). -/
theorem test_decode_number : decodeNumber (2 ^ 43) = .error .widerThanAnOperationWord ∧
    decodeTableWord 48 0x20000000000 = some .pull ∧ decodeTableWord 48 (2 ^ 43) = none := by decide

/-! The states and the choice of the OPEN functions the vectors use. -/

/-- R = 28160 (95_test_vectors.md section 0). -/
def p28 (strict : Bool) : Params :=
  { sampleRate := 28160, strict := strict, retrigger := .hold, ignoredCc := Config.defaultIgnoredCc }

/-- TC1 (95_test_vectors.md section 0). -/
def tc1 : Settings :=
  { ctrl := ⟨.square, .stateVariable, .lowPass⟩, peak := 0x3F800000, sustain := 0x3F000000, attackT := 0x3C23D70A,
    decayT := 0x3DCCCCCD, releaseT := 0x3E4CCCCD, cutoff := 0x44FA0000, resonance := 0x3F800000, volUp := 0x3F000000,
    volDown := 0x3F000000, panUp := 0x3F000000, panDown := 0x3F000000 }

/-- Configuration registers that all hold a value. -/
def regsOf (g : Settings) : ConfigRegs :=
  { ctrl := some g.ctrl, peak := some g.peak, sustain := some g.sustain, attackT := some g.attackT,
    decayT := some g.decayT, releaseT := some g.releaseT, cutoff := some g.cutoff, resonance := some g.resonance,
    volUp := some g.volUp, volDown := some g.volDown, panUp := some g.panUp, panDown := some g.panDown }

/-- The construction state with TC1 written. -/
def ready28 (strict : Bool) : State := { State.construction (p28 strict) with cfg := regsOf tc1 }

/-- What the vectors say of the OPEN functions at TC1: `LN` of FLOOR, 0.5 and 1.0; `EXP2(0.0)`; `SVF_F`, `SVF_Q`;
the low-pass coefficients of 43_primitives.md R75. Elsewhere, 0. -/
def tableNumerics : Numerics :=
  { ln := fun x => if x = 0x38000100 then 0xC1265AD6 else if x = 0x3F000000 then 0xBF317218 else 0
    sin := fun _ => 0
    exp2 := fun x => if x = 0 then 0x3F800000 else 0
    bqCoeffs := fun _ _ _ => ⟨0x3D19A96F, 0x3D99A96F, 0x3D19A96F, 0xBFB0EF2F, 0x3F0848BA⟩
    svfF := fun _ _ => 0x3EE296A1
    svfQ := fun _ => 0x3F800000 }

/-- N1: slot 0 after `NOTE_ON 0, 69, 100`. -/
def n1Voice : Voice :=
  { Voice.silent with key := 49, vel := 100, env := .attack, mult := 0x3F84B9DA, inc := 0x3C800000 }

/-- A voice on key 49 in sustain, and one in release about to fall silent. -/
def heldVoice (e : EnvState) : Voice := { n1Voice with env := e, level := 0x3EFFF678, mult := 0x3F800000 }

/-- TC1 with slot 0 in a given voice state. -/
def withVoice (strict : Bool) (v : Voice) : State := (ready28 strict).setVoice 0 v

/-- The outcome is the next state given. -/
def answers (r : Result) (t : State) : Bool :=
  match r with
  | .next u => decide (u = t)
  | .fault _ => false
  | .refused _ => false

theorem eq_of_answers {r : Result} {t : State} (h : answers r t = true) : r = .next t := by
  cases r <;> simp_all [answers]

/-- The outcome is the given way of having no step. -/
def hasNoStep (r : Result) (f : Fault) : Bool :=
  match r with
  | .next _ => false
  | .fault e => decide (e = f)
  | .refused _ => false

/-! Arithmetic and primitives. -/

/-- 42_envelope.md R63: the example's `q` and `m`. -/
theorem test_rampMult : rampMult tableNumerics (p28 true) 0x38000100 0x3F800000 0x3C23D70A = .ok 0x3F84B9DA := by
  decide +kernel

/-- Section 3.4 E1: `RELEASE_T` = 1e-4 makes the multiplier negative. -/
theorem test_rampMult_invalid :
    rampMult tableNumerics (p28 true) 0x3F000000 0x38000100 0x38D1B717 = .error .envParam := by decide +kernel

/-- Section 3.7: `S16`. -/
theorem test_toS16 : (toS16 0x3F800000).toInt = 32767 ∧ (toS16 0xBF800000).toInt = -32767 ∧
    (toS16 0x3F000000).toInt = 16383 ∧ (toS16 0x3F7FBE77).toInt = 32734 ∧ (toS16 0x40000000).toInt = 32767 ∧
    (toS16 0xBFC00000).toInt = -32768 := by decide +kernel

/-- Section 3.7: `Pan(0.5, 0.75)` = (0.125, 0.375). -/
theorem test_pan : panSplit 0x3F000000 0x3F400000 = (0x3E000000, 0x3EC00000) := by decide +kernel

/-- Section 3.5 P-1, P-2, P-4, P-5. -/
theorem test_ramp : (rampPull ⟨0x3F800000, 0⟩ 0 0x3F000000).value = 0x3F000000 ∧
    (rampPull ⟨0x3F000000, 0x3F800000⟩ 0x3F000000 0).value = 0x3F400000 ∧
    (rampPull ⟨0x3F800000, 0⟩ 0x3F000000 0).value = 0 ∧
    (rampPull ⟨0x3F800000, 0⟩ 0 0x3F800000).value = 0x3F800000 := by decide +kernel

/-- Section 3.3: the phase after 0.984375 is 0.0. -/
theorem test_phase : advancePhase 0x3F7C0000 0x3C800000 = 0 ∧ advancePhase 0 0x3C800000 = 0x3C800000 := by
  decide +kernel

/-- Section 3.6: the second step of the state-variable low-pass answers `0x3E488E4D`. -/
theorem test_svf :
    (filterStep tableNumerics (p28 true) tc1 { Voice.silent with band := 0x3EE296A1 } 0x3F800000).2 = 0x3E488E4D := by
  decide +kernel

/-- Section 3.6: the second step of the biquad low-pass answers `0x3E28591A`. -/
theorem test_biquad :
    (filterStep tableNumerics (p28 true) { tc1 with ctrl := ⟨.square, .biquad, .lowPass⟩ }
      { Voice.silent with x1 := 0x3F800000, y1 := 0x3D19A96F } 0x3F800000).2 = 0x3E28591A := by decide +kernel

/-- 10_state.md R19, section 3.8 A1 to A8, A12, A13: legal values at their bounds. -/
theorem test_legal : legalValue (p28 true) .attackT 0x80000000 = false ∧
    legalValue (p28 true) .attackT 0x7FC00000 = false ∧ legalValue (p28 true) .attackT 0x7F800000 = false ∧
    legalValue (p28 true) .cutoff 0x465C0000 = false ∧ legalValue (p28 true) .cutoff 0x465BFC00 = true ∧
    legalValue (p28 true) .volUp 0x3F800000 = true ∧ legalValue (p28 true) .volUp 0x3F800001 = false ∧
    legalValue (p28 true) .volUp 0x80000000 = true ∧ legalValue (p28 true) .peak 0x38000100 = false ∧
    legalValue (p28 true) .peak 0x38000101 = true := by decide +kernel

/-- 10_state.md R19, section 3.8 A9 to A11: `CTRL`. -/
theorem test_ctrl : ctrlOf 0x20 = none ∧ ctrlOf 0x18 = none ∧
    ctrlOf 0x17 = some ⟨.sawtooth, .stateVariable, .highPass⟩ ∧
    ctrlWord ⟨.sawtooth, .stateVariable, .highPass⟩ = 0x17 := by decide

/-! Commands (section 3.1, 3.2). -/

/-- N1: `NOTE_ON 0, 69, 100`, and `CFG_RD 0x40`. -/
theorem test_noteOn : answers (noteOn tableNumerics 69 100 (ready28 true)) (withVoice true n1Voice) = true ∧
    (withVoice true n1Voice).readReg (regAt 0x40) = some 0x00640131 := by decide +kernel

/-- E4: `SUSTAIN > PEAK` faults, `STATUS` = 0x51, and the voice stays. -/
theorem test_noteOn_faults :
    exec (.noteOn 0 69 100) { ready28 true with cfg := regsOf { tc1 with peak := 0x3F000000, sustain := 0x3F800000 } } =
      .next ({ ready28 true with
        cfg := regsOf { tc1 with peak := 0x3F000000, sustain := 0x3F800000 } }.takeFault .envParam) ∧
    statusWord ((ready28 true).takeFault .envParam) = 0x51 := ⟨by rfl, by decide +kernel⟩

/-- N4: `NOTE_OFF` of slot 0 computes the release multiplier `0x3F7F8F15` and keeps the level. -/
theorem test_noteOff : answers (noteOff tableNumerics 69 (withVoice true n1Voice))
    (withVoice true { n1Voice with env := .release, mult := 0x3F7F8F15 }) = true := by decide +kernel

/-- N5: idempotent. -/
theorem test_noteOff_idempotent : exec (.noteOff 0 69 0) (withVoice true { n1Voice with env := .release }) =
    .next (withVoice true { n1Voice with env := .release }) := by rfl

/-- N6. -/
theorem test_noteOnVel0 : exec (.noteOnVel0 0 70) (withVoice true n1Voice) = .next (withVoice true n1Voice) := by rfl

/-- N7: note 20 has no PianoKey; strict faults with `STATUS` = 0x13. -/
theorem test_noteOn_outside : exec (.noteOn 0 20 100) (ready28 true) = .next ((ready28 true).takeFault .proto) ∧
    statusWord ((ready28 true).takeFault .proto) = 0x13 := ⟨by rfl, by decide⟩

/-- N9, N10. -/
theorem test_polyPressure : exec (.polyPressure 0 69 10) (ready28 false) = .next (ready28 false) ∧
    exec (.polyPressure 0 10 10) (ready28 false) = .next ((ready28 false).flagged .proto) := ⟨by rfl, by rfl⟩

/-- C1: `VOL.target` = 0x3F499326; the value stays. -/
theorem test_ccVolume : answers (exec (.ccVolume 0 100) (ready28 true))
    { ready28 true with vol := ⟨0x3F800000, 0x3F499326⟩ } = true := by decide +kernel

/-- C4: `PAN.target` = 0x3F010204. -/
theorem test_ccPan : answers (exec (.ccPan 0 64) (ready28 true))
    { ready28 true with pan := ⟨0x3F000000, 0x3F010204⟩ } = true := by decide +kernel

/-- C6. -/
theorem test_ccIgnored : exec (.ccIgnored1 0 5) (ready28 true) = .next (ready28 true) ∧
    exec (.ccIgnored64 0 127) (ready28 true) = .next (ready28 true) ∧
    exec (.ccIgnored95 0 1) (ready28 true) = .next (ready28 true) := ⟨by rfl, by rfl, by rfl⟩

/-- C7: hardened, `STATUS` = 0x02. -/
theorem test_ccUnhandled : exec (.ccUnhandled 0 11 5) (ready28 false) = .next ((ready28 false).flagged .proto) ∧
    statusWord ((ready28 false).flagged .proto) = 0x02 := ⟨by rfl, by decide⟩

/-- Section 2, R56: channel pressure, strict. -/
theorem test_illegal : exec (.illegalChannelPressure 0 0x40 0) (ready28 true) =
    .next ((ready28 true).takeFault .proto) := by rfl

/-- C9: `CFG_RD 0x11` = 5. -/
theorem test_programChange : exec (.programChange 0 5 0xFF) (ready28 true) = .next { ready28 true with program := 5 } ∧
    State.readReg { ready28 true with program := 5 } (regAt 0x11) = some 5 := ⟨by rfl, by decide⟩

/-- C10, C12. -/
theorem test_pitchBend : (bendOperand 0 0).toInt = -8192 ∧ (bendOperand 127 127).toInt = 8191 ∧
    State.readReg { ready28 true with bend := bendOperand 0 0 } (regAt 0x12) = some 0xFFFFE000 := by decide

/-! Pulls, configuration accesses, reset. -/

/-- P1: the first pull after N1 outputs silence and leaves the level `0x3804BAE3` (section 3.4, pull 1). -/
theorem test_voiceSample : voiceSample tableNumerics (p28 true) tc1 n1Voice =
    .ok ({ n1Voice with phase := 0x3C800000, level := 0x3804BAE3, band := 0x3EE296A1 }, 0) := by decide +kernel

/-- Section 4, R57: with every voice off and `VOL` = (1.0, 0.0), one pull outputs silence and leaves 0.5. -/
theorem test_pull : answers (execPull { ready28 true with vol := ⟨0x3F800000, 0⟩ })
    { ready28 true with
      vol := ⟨0x3F000000, 0⟩
      voices := Vector.replicate 32 { Voice.silent with elapsed := 1 }
      observed := [.frame 0 0 0 0] } = true := by decide +kernel

/-- `ready28` after one pull: silence, and every counter at 1. -/
def pulled28 : State :=
  { ready28 true with
    voices := Vector.replicate 32 { Voice.silent with elapsed := 1 }
    observed := [.frame 0 0 0 0] }

theorem pull_ready28 : exec .pull (ready28 true) = .next pulled28 := eq_of_answers (by decide +kernel)

/-- A13, and A12 refused (hardened). -/
theorem test_cfgWr : answers (exec (.cfgWr 0x01 0x38000101) (ready28 false))
      { ready28 false with cfg := regsOf { tc1 with peak := 0x38000101 } } = true ∧
    answers (exec (.cfgWr 0x01 0x38000100) (ready28 false)) ((ready28 false).flagged .cfg) = true := by decide +kernel

/-- A18: a write of 0xE clears the three flags. -/
theorem test_cfgWr_status :
    answers (exec (.cfgWr 0x10 0xE) { ready28 false with errProto := true, errCfg := true, errNumeric := true })
      (ready28 false) = true := by decide +kernel

/-- F2: in FAULTED with cause 1, `CFG_RD 0x10` answers 0x13. -/
theorem test_cfgRd : answers (exec (.cfgRd 0x10) ((ready28 true).takeFault .proto))
    (((ready28 true).takeFault .proto).emit (.word 0x13)) = true := by decide +kernel

/-- F4: in FAULTED a reserved read has no step. -/
theorem test_cfgRd_reserved :
    hasNoStep (exec (.cfgRd 0x0C) ((ready28 true).takeFault .proto)) .reservedReadInFaulted = true := by
  decide +kernel

/-- F5. -/
theorem test_reset :
    answers (exec .reset ((withVoice true n1Voice).takeFault .proto)) (State.construction (p28 true)) = true := by
  decide +kernel

/-- F6: a malformed RESET does not reset. -/
theorem test_reset_malformed :
    hasNoStep (step (((ready28 true).takeFault .proto).present 0x70000000000)) .heldInFaulted = true := by
  decide +kernel

/-! Witnesses: for every statement with hypotheses, a concrete state and operands that meet them together. -/

/-- Every register of `ready28` holds a value. -/
theorem ready28_ready (strict : Bool) : (ready28 strict).ready tc1 := ⟨rfl, rfl⟩

theorem withVoice_ready (strict : Bool) (v : Voice) : (withVoice strict v).ready tc1 := ⟨rfl, rfl⟩

theorem witness_DecodeAfterEncode : Instr.wellFormed (.noteOn 15 127 127) = true := by decide

theorem witness_StepRunsThePresentedOperation :
    ((ready28 true).present 0x20000000000).arriving = 0x20000000000 :: [] ∧
      decode 0x20000000000 = .pull := ⟨rfl, by decide⟩

/-- The controllers next to the allow-list's, and the notes next to the piano's. -/
theorem witness_ProtocolErrorsFollowThePolicy :
    (ready28 true).mode = .run ∧ (0 : BitVec 7) ∉ (ready28 true).params.ignoredCc ∧
      (96 : BitVec 7) ∉ (ready28 false).params.ignoredCc ∧
      (ready28 false).ready tc1 ∧ ((20 : BitVec 7).toNat < 21) ∧ 108 < (109 : BitVec 7).toNat :=
  ⟨rfl, by decide, by decide, ready28_ready false, by decide, by decide⟩

/-- Only the last register is UNSET. -/
theorem witness_UnsetConfigurationFaults :
    (State.mode { ready28 false with cfg := { regsOf tc1 with panDown := none } } = .run) ∧
      State.cfg { ready28 false with cfg := { regsOf tc1 with panDown := none } } =
        { regsOf tc1 with panDown := none } ∧
      ConfigRegs.read { regsOf tc1 with panDown := none } .panDown = none ∧
      ∀ cc ∈ Config.defaultIgnoredCc, cc ∈ (ready28 false).params.ignoredCc :=
  ⟨rfl, rfl, rfl, fun _ h => h⟩

/-- PROTO, CFG, CFG_UNSET and ENV_PARAM; `witness_numericFault` is NUMERIC. -/
theorem witness_FaultsArePrecise :
    (ready28 true).mode = .run ∧
      exec (.illegalSystem 0 0 0) (ready28 true) = .next ((ready28 true).takeFault .proto) ∧
      exec (.cfgWr 0x11 0) (ready28 true) = .next ((ready28 true).takeFault .cfg) ∧
      exec .pull (State.construction (p28 true)) = .next ((State.construction (p28 true)).takeFault .cfgUnset) ∧
      exec (.noteOn 0 69 100)
          { ready28 true with cfg := regsOf { tc1 with peak := 0x3F000000, sustain := 0x3F800000 } } =
        .next ({ ready28 true with
          cfg := regsOf { tc1 with peak := 0x3F000000, sustain := 0x3F800000 } }.takeFault .envParam) ∧
      ∀ c, ((ready28 true).takeFault c).mode = .faulted :=
  ⟨rfl, rfl, rfl, rfl, rfl, fun _ => rfl⟩

/-- An infinite volume over a sum of +0.0: the output is a NaN, whichever. -/
theorem witness_numericFault :
    exec .pull { ready28 true with vol := ⟨0x7F800000, 0x7F800000⟩ } =
      .next ({ ready28 true with vol := ⟨0x7F800000, 0x7F800000⟩ }.takeFault .numeric) := by
  have hn : floatValue (fMul 0 0x7F800000) = .nan := by
    rw [show fMul 0 0x7F800000 = resultNaN .mul 0 0x7F800000 from rfl]
    simp
  have hf : ∀ x, fFinite (fMul (fMul 0 0x7F800000) x) = false := by
    intro x
    rw [fMul_nan hn]
    simp [fFinite]
  simp only [exec, execPull]
  refine pullWith_eq_next.mpr ⟨rfl, .inr ⟨tc1, rfl, .inr ⟨(ready28 true).voices, 0, by decide +kernel, ?_⟩⟩⟩
  refine outputStage_eq_next.mpr ⟨_, _, rfl, .inr ⟨?_, numericError_eq_next.mpr (.inl ⟨rfl, rfl⟩)⟩⟩
  have hv : (rampPull ⟨0x7F800000, 0x7F800000⟩ tc1.volUp tc1.volDown).value = 0x7F800000 := by decide +kernel
  simp only [pulledState, hv]
  rw [show fFinite (fMul (fMul 0 0x7F800000) _) = false from hf _]
  rfl

/-- PROTO, CFG and CFG_UNSET; `witness_numericFault` is NUMERIC, `witness_FaultsArePrecise` has ENV_PARAM. -/
theorem witness_FaultCauseNamesItsSource :
    (ready28 true).mode = .run ∧ exec (.cfgRd 0xFF) (ready28 true) = .next ((ready28 true).takeFault .cfg) ∧
      exec (.noteOn 0 20 100) (ready28 true) = .next ((ready28 true).takeFault .proto) ∧
      exec (.cfgRd 0x01) (State.construction (p28 true)) =
        .next ((State.construction (p28 true)).takeFault .cfgUnset) ∧
      ((ready28 true).takeFault .cfg).mode = .faulted := ⟨rfl, rfl, rfl, rfl, rfl⟩

/-- A register that holds a value, a reserved address, and operations that are held. -/
theorem witness_FaultedHoldsEveryOperation :
    ((ready28 true).takeFault .proto).mode = .faulted ∧ Instr.pull ≠ .reset ∧ (∀ a, Instr.pull ≠ .cfgRd a) ∧
      ((ready28 true).takeFault .proto).readReg (regAt 0x01) = some 0x3F800000 ∧
      ((ready28 true).takeFault .proto).readReg (regAt 0x0C) = none ∧
      exec .reset ((ready28 true).takeFault .proto) = .next (State.construction (p28 true)) :=
  ⟨rfl, by decide, by simp, rfl, rfl, rfl⟩

/-- A run of one step is that step. -/
theorem run_one {s t : State} (h : step s = .next t) : Host.Core.run Sys2Proof.core 1 s = .next t := by
  have h' : Sys2Proof.core.step s = .next t := h
  simp only [Host.Core.run, h']

theorem witness_FaultedRunNeedsReset :
    ((ready28 true).takeFault .proto).mode = .faulted ∧
      (∀ w ∈ (((ready28 true).takeFault .proto).present 0x41000000000).arriving, decode w ≠ .reset) ∧
      Host.Core.run Sys2Proof.core 1 (((ready28 true).takeFault .proto).present 0x41000000000) =
        .next (((ready28 true).takeFault .proto).emit (.word 0x13)) := by
  refine ⟨rfl, fun w hw => ?_, run_one (eq_of_answers (by decide +kernel))⟩
  obtain rfl : w = 0x41000000000 := List.mem_singleton.mp hw
  decide

theorem witness_HardenedFaultsOnlyOnConfiguration :
    (State.construction (p28 false)).mode = .run ∧ (State.construction (p28 false)).params.strict = false ∧
      exec .pull (State.construction (p28 false)) = .next ((State.construction (p28 false)).takeFault .cfgUnset) ∧
      ((State.construction (p28 false)).takeFault .cfgUnset).mode = .faulted := ⟨rfl, rfl, rfl, rfl⟩

/-- Each flag set before and cleared by its own bit of `DATA`, and set by its own operation. -/
theorem witness_ErrorFlagsAreSticky :
    exec (.cfgWr 0x10 0x2) ((ready28 false).flagged .proto) = .next (ready28 false) ∧
      exec (.cfgWr 0x10 0x4) ((ready28 false).flagged .cfg) = .next (ready28 false) ∧
      exec (.cfgWr 0x10 0x8) ((ready28 false).flagged .numeric) = .next (ready28 false) ∧
      exec (.illegalSystem 0 0 0) (ready28 false) = .next ((ready28 false).flagged .proto) ∧
      exec (.cfgWr 0x0C 0) (ready28 false) = .next ((ready28 false).flagged .cfg) ∧
      exec .pull { ready28 true with vol := ⟨0x7F800000, 0x7F800000⟩ } =
        .next ({ ready28 true with vol := ⟨0x7F800000, 0x7F800000⟩ }.takeFault .numeric) ∧
      Instr.pull ≠ .reset ∧ Instr.illegalSystem 0 0 0 ≠ .reset ∧ ∀ a d, Instr.cfgWr a d ≠ .reset :=
  ⟨eq_of_answers (by decide +kernel), eq_of_answers (by decide +kernel), eq_of_answers (by decide +kernel),
    eq_of_answers (by decide +kernel), eq_of_answers (by decide +kernel), witness_numericFault, by decide, by decide,
    by simp⟩

/-- The bounds of `CTRL` and of a ramp multiplier. -/
theorem witness_ConfigWriteReadsBack :
    (ready28 true).mode = .run ∧ legalValue (ready28 true).params .ctrl 0x17 = true ∧
      legalValue (ready28 true).params .panDown 0x80000000 = true := by decide +kernel

/-- One write for each of the four grounds, at the ends of its range. -/
theorem witness_RefusedWritesFollowThePolicy :
    (ready28 true).mode = .run ∧ (0x11 ≤ (0x11 : BitVec 8).toNat ∧ (0x16 : BitVec 8).toNat ≤ 0x16) ∧
      (0x40 ≤ (0x40 : BitVec 8).toNat ∧ (0xBF : BitVec 8).toNat ≤ 0xBF) ∧
      ((0x01 : BitVec 8) = cfgAddress .peak ∧ legalValue (ready28 true).params .peak 0x38000100 = false) ∧
      (0x00000001 : Word) &&& 0xFFFFFFF1 ≠ 0 ∧ (0x00000010 : Word) &&& 0xFFFFFFF1 ≠ 0 := by decide +kernel

theorem witness_ReservedAddressesAreRefused :
    (ready28 true).mode = .run ∧ regAt 0x0C = .reserved ∧ regAt 0x0F = .reserved ∧ regAt 0x17 = .reserved ∧
      regAt 0x3F = .reserved ∧ regAt 0xC0 = .reserved ∧ regAt 0xFF = .reserved ∧ regAt 0x10 ≠ .reserved ∧
      regAt 0x16 ≠ .reserved ∧ regAt 0x40 ≠ .reserved ∧ regAt 0xBF ≠ .reserved := by decide

/-- Both clauses: a `DATA` that is refused, and one that clears. -/
theorem witness_StatusWriteClearsFlags :
    (ready28 false).mode = .run ∧ (0x1 : Word) &&& 0xFFFFFFF1 ≠ 0 ∧ ¬(0xE : Word) &&& 0xFFFFFFF1 ≠ 0 := by decide

theorem witness_ConfigReadHasNoEffect :
    (ready28 true).mode = .run ∧ (ready28 true).readReg (regAt 0x00) = some 0x5 ∧
      (ready28 true).readReg (regAt 0xBF) = some 0 := ⟨rfl, rfl, rfl⟩

/-- Each clause at its bounds: a legal value, and the nearest one that is not. -/
theorem witness_LegalValuesAreFinite :
    CfgReg.cutoff ≠ .ctrl ∧ legalValue (p28 true) .ctrl 0x17 = true ∧ legalValue (p28 true) .ctrl 0x18 = false ∧
      legalValue (p28 true) .sustain 0x38000101 = true ∧ legalValue (p28 true) .sustain 0x38000100 = false ∧
      legalValue (p28 true) .resonance 0x00000001 = true ∧ legalValue (p28 true) .resonance 0 = false ∧
      legalValue (p28 true) .cutoff 0x465BFFFF = true ∧ legalValue (p28 true) .cutoff 0x465C0000 = false ∧
      legalValue (p28 true) .panUp 0x3F800000 = true ∧ legalValue (p28 true) .panUp 0x3F800001 = false := by
  decide +kernel

/-- The twelve writes of TC1, last address first. -/
def tc1Writes : List (CfgReg × Word) :=
  [(.panDown, 0x3F000000), (.panUp, 0x3F000000), (.volDown, 0x3F000000), (.volUp, 0x3F000000),
    (.resonance, 0x3F800000), (.cutoff, 0x44FA0000), (.releaseT, 0x3E4CCCCD), (.decayT, 0x3DCCCCCD),
    (.attackT, 0x3C23D70A), (.sustain, 0x3F000000), (.peak, 0x3F800000), (.ctrl, 0x5)]

theorem witness_BootWritesMakeReady :
    (State.construction (p28 true)).mode = .run ∧
      (∀ rd ∈ tc1Writes, legalValue (State.construction (p28 true)).params rd.1 rd.2 = true) ∧
      ∀ r : CfgReg, ∃ d, (r, d) ∈ tc1Writes :=
  ⟨rfl, by decide +kernel, fun r => by cases r <;> simp [tc1Writes]⟩

theorem witness_VolumeControllerSetsTarget : (ready28 true).ready tc1 := ready28_ready true

theorem witness_PanControllerSetsTarget : (ready28 false).ready tc1 := ready28_ready false

theorem witness_AllowListedControllersChangeNothing :
    (ready28 true).ready tc1 ∧ ∀ cc ∈ Config.defaultIgnoredCc, cc ∈ (ready28 true).params.ignoredCc :=
  ⟨ready28_ready true, fun _ h => h⟩

theorem witness_ProgramChangeStoresNumber : (withVoice true n1Voice).ready tc1 := withVoice_ready true n1Voice

theorem witness_PitchBendStoresOffset : (withVoice true n1Voice).ready tc1 := withVoice_ready true n1Voice

/-- Both ends of the piano. -/
theorem witness_PolyPressureChangesNothing :
    (ready28 true).ready tc1 ∧ 21 ≤ (21 : BitVec 7).toNat ∧ (108 : BitVec 7).toNat ≤ 108 :=
  ⟨ready28_ready true, by decide, by decide⟩

/-- A state for each clause: bound, free, and none free. -/
theorem witness_VoiceSelectionOrder :
    (∃ j, ((withVoice true n1Voice).voice j).key = 49) ∧
      ((∀ j, ((withVoice true n1Voice).voice j).key ≠ 50) ∧
        ∃ j, ((withVoice true n1Voice).voice j).env = .off ∧ ((withVoice true n1Voice).voice j).key = 0) ∧
      (∀ j, (State.voice { ready28 true with voices := Vector.replicate 32 n1Voice } j).key ≠ 50) ∧
        ∀ j, ¬((State.voice { ready28 true with voices := Vector.replicate 32 n1Voice } j).env = .off ∧
          (State.voice { ready28 true with voices := Vector.replicate 32 n1Voice } j).key = 0) := by
  refine ⟨⟨0, rfl⟩, ⟨by decide, 1, rfl, rfl⟩, by decide, by decide⟩

theorem witness_RetriggerUnderHoldKeepsEnvelope :
    (withVoice true n1Voice).ready tc1 ∧ 21 ≤ (69 : BitVec 7).toNat ∧ (69 : BitVec 7).toNat ≤ 108 ∧
      (withVoice true n1Voice).params.retrigger = .hold ∧
      ((withVoice true n1Voice).voice (selectSlot (withVoice true n1Voice) (69 - 20))).env ≠ .off :=
  ⟨withVoice_ready true n1Voice, by decide, by decide, rfl, by decide⟩

/-- A silent voice; and a sounding one under RESTART. -/
theorem witness_NoteOnStartsTheAttack :
    ((ready28 true).ready tc1 ∧ 21 ≤ (21 : BitVec 7).toNat ∧ (108 : BitVec 7).toNat ≤ 108 ∧
      ((ready28 true).voice (selectSlot (ready28 true) (21 - 20))).env = .off) ∧
    State.ready { withVoice true n1Voice with params := { p28 true with retrigger := .restart } } tc1 ∧
      (State.params { withVoice true n1Voice with params := { p28 true with retrigger := .restart } }).retrigger =
        .restart :=
  ⟨⟨ready28_ready true, by decide, by decide, by decide⟩, ⟨rfl, rfl⟩, rfl⟩

/-- A key no voice holds, and a key held by a voice in release. -/
theorem witness_NoteOffIsIdempotent :
    ((ready28 true).ready tc1 ∧ 21 ≤ (69 : BitVec 7).toNat ∧ (69 : BitVec 7).toNat ≤ 108 ∧
      ∀ i, ((ready28 true).voice i).key ≠ 69 - 20) ∧
    (withVoice true (heldVoice .release)).ready tc1 ∧
      ∀ i, ((withVoice true (heldVoice .release)).voice i).key = 69 - 20 →
        ((withVoice true (heldVoice .release)).voice i).env = .release ∨
          ((withVoice true (heldVoice .release)).voice i).env = .off :=
  ⟨⟨ready28_ready true, by decide, by decide, by decide⟩, withVoice_ready _ _, by decide⟩

theorem witness_NoteOffReleasesTheBoundVoice :
    (withVoice true (heldVoice .sustain)).ready tc1 ∧ 21 ≤ (69 : BitVec 7).toNat ∧ (69 : BitVec 7).toNat ≤ 108 ∧
      ((withVoice true (heldVoice .sustain)).voice 0).key = 69 - 20 ∧
      (∀ j, ((withVoice true (heldVoice .sustain)).voice j).key = 69 - 20 → j = 0) ∧
      (((withVoice true (heldVoice .attack)).voice 0).env = .attack ∧
        ((withVoice true (heldVoice .decay)).voice 0).env = .decay ∧
        ((withVoice true (heldVoice .sustain)).voice 0).env = .sustain) :=
  ⟨withVoice_ready _ _, by decide, by decide, by decide, by decide, rfl, rfl, rfl⟩

/-- An attack that reaches PEAK under a SUSTAIN above it. -/
def brokenAttack : Voice := { n1Voice with level := 0x3F000000, mult := 0x3F800000 }

/-- TC1 with SUSTAIN above PEAK. -/
def brokenSettings : Settings := { tc1 with peak := 0x3F000000, sustain := 0x3F800000 }

/-- With every voice off, each sample is the voice itself and +0.0; and a voice whose sample raises ENV_PARAM. -/
theorem witness_PullAdvancesEveryVoice :
    ((ready28 true).ready tc1 ∧
      ∀ i, voiceSample Config.numerics (ready28 true).params tc1 ((ready28 true).voice i) = .ok (Voice.silent, 0)) ∧
    State.ready { withVoice true brokenAttack with cfg := regsOf brokenSettings } brokenSettings ∧
      ∃ i c, voiceSample Config.numerics (p28 true) brokenSettings ((withVoice true brokenAttack).voice i) =
        .error c := by
  refine ⟨⟨ready28_ready true, fun i => ?_⟩, ⟨rfl, rfl⟩, 0, .envParam, rfl⟩
  have h : (ready28 true).voice i = Voice.silent := by revert i; decide
  rw [h]
  rfl

theorem witness_SilentPullOutputsZero :
    (ready28 true).ready tc1 ∧ (∀ i, ((ready28 true).voice i).env = .off) ∧
      fFinite (rampPull (ready28 true).vol tc1.volUp tc1.volDown).value = true ∧
      (rampPull (ready28 true).vol tc1.volUp tc1.volDown).value.msb = false ∧
      (rampPull (ready28 true).pan tc1.panUp tc1.panDown).value.msb = false ∧
      fLe (rampPull (ready28 true).pan tc1.panUp tc1.panDown).value 0x3F800000 = true :=
  ⟨ready28_ready true, by decide, by decide +kernel, by decide +kernel, by decide +kernel, by decide +kernel⟩

/-- `ready28` with every elapsed count at its last value. -/
def worn28 : State :=
  { ready28 true with voices := Vector.replicate 32 { Voice.silent with elapsed := 0xFFFFFFFF } }

theorem pull_worn28 : exec .pull worn28 = .next { worn28 with observed := [.frame 0 0 0 0] } :=
  eq_of_answers (by decide +kernel)

/-- One pull that does not fault, also at saturation; a note-on that does not fault; and another operation. -/
theorem witness_ElapsedCountsPulls :
    (∃ t, afterPulls 1 (ready28 true) = some t) ∧
      (∃ t, afterPulls 1 worn28 = some t ∧ ∀ i, (t.voice i).elapsed = 0xFFFFFFFF) ∧
      ((withVoice true n1Voice).ready tc1 ∧ 21 ≤ (69 : BitVec 7).toNat ∧ (69 : BitVec 7).toNat ≤ 108 ∧
        ∃ t, exec (.noteOn 0 69 90) (withVoice true n1Voice) = .next t ∧ t.mode = .run) ∧
      ∃ t, exec (.noteOff 0 69 0) (ready28 true) = .next t := by
  refine ⟨⟨pulled28, ?_⟩, ⟨{ worn28 with observed := [.frame 0 0 0 0] }, ?_, by decide⟩,
    ⟨withVoice_ready _ _, by decide, by decide, _, rfl, rfl⟩, _, rfl⟩
  · have h : execPull (ready28 true) = .next pulled28 := pull_ready28
    simp only [afterPulls, h]
    rfl
  · have h : execPull worn28 = .next { worn28 with observed := [.frame 0 0 0 0] } := pull_worn28
    simp only [afterPulls, h]
    rfl

theorem witness_PullFrame :
    (ready28 true).ready tc1 ∧ (∃ t, exec .pull (ready28 true) = .next t ∧ t.mode = .run) ∧
      ((ready28 true).voice 31).env = .off ∧ tc1.ctrl.topo = .stateVariable ∧
      State.ready { ready28 true with cfg := regsOf { tc1 with ctrl := ⟨.sine, .biquad, .lowPass⟩ } }
        { tc1 with ctrl := ⟨.sine, .biquad, .lowPass⟩ } :=
  ⟨ready28_ready true, ⟨_, pull_ready28, rfl⟩, by decide, rfl, ⟨rfl, rfl⟩⟩

/-- A released voice at FLOOR whose level halves. -/
theorem witness_FallingSilentResetsThePhase :
    ({ heldVoice .release with level := 0x38000100, mult := 0x3F000000 } : Voice).env ≠ .off ∧
      ∃ v y, voiceSample tableNumerics (p28 true) tc1
          { heldVoice .release with level := 0x38000100, mult := 0x3F000000 } = .ok (v, y) ∧ v.env = .off := by
  have h : (match voiceSample tableNumerics (p28 true) tc1
      { heldVoice .release with level := 0x38000100, mult := 0x3F000000 } with
    | .ok r => r.1.env == .off
    | .error _ => false) = true := by decide +kernel
  refine ⟨by decide, ?_⟩
  split at h
  next r hr => exact ⟨r.1, r.2, hr, by simpa using h⟩
  next => cases h

/-- Two engines that differ in the program, a velocity and an elapsed count; a pull, and an operation that plays no
note. -/
theorem witness_SoundIgnoresProgramBendVelocity :
    (ready28 true).soundsLike { (ready28 true).setVoice 31 { Voice.silent with key := 88, vel := 127, elapsed := 9 }
      with program := 127 } ∧ (∃ t, exec .pull (ready28 true) = .next t) ∧
      ¬playsNote (.ccVolume 0 100) ∧ ∃ t, exec (.ccVolume 0 100) (ready28 true) = .next t := by
  refine ⟨⟨rfl, rfl, rfl, rfl, rfl, fun i => ?_⟩, ⟨_, pull_ready28⟩, by simp [playsNote], _, rfl⟩
  unfold Voice.soundsLike
  revert i
  decide

theorem witness_PanLawIsLinear : fFinite 0x80000001 = true ∧ fFinite 0x7F7FFFFF = true := by decide +kernel

/-- A finite product, and both overflows. -/
theorem witness_SampleConversionSaturates :
    (fFinite 0x3F800000 = true ∧ fFinite (fMul 0x3F800000 0x46FFFE00) = true) ∧
      (fFinite 0x7F7FFFFF = true ∧ fMul 0x7F7FFFFF 0x46FFFE00 = 0x7F800000) ∧
      fFinite 0xFF7FFFFF = true ∧ fMul 0xFF7FFFFF 0x46FFFE00 = 0xFF800000 := by decide +kernel

/-- The ends of [0, 1). -/
theorem witness_PhaseStaysInTheUnitInterval :
    inUnitPhase 0 ∧ inUnitPhase 0x80000000 ∧ inUnitPhase 0x3F7FFFFF := by
  unfold inUnitPhase
  decide +kernel

/-- Rising, falling and at the target, with multipliers at both ends. -/
theorem witness_RampNeverPassesItsTarget :
    zeroToOne 0 = true ∧ zeroToOne 0x3F800000 = true ∧ fLt 0 0x3F800000 = true ∧ fLt 0x3F800000 0 = false ∧
      fLt 0 0 = false := by decide +kernel

theorem witness_FilterFirstStepFromRest :
    (tableNumerics.bqCoeffs .lowPass 0 0).a0 = 0x3D19A96F ∧ fFinite 0x3D19A96F = true ∧
      (0x3D19A96F : Word) &&& 0x7FFFFFFF ≠ 0 ∧ fFinite 0x3D99A96F = true ∧ fFinite 0xBFB0EF2F = true ∧
      fFinite 0x3F0848BA = true ∧ tableNumerics.svfF 0 0 = 0x3EE296A1 ∧ tableNumerics.svfQ 0 = 0x3F800000 ∧
      fFinite 0x3EE296A1 = true ∧ (0x3EE296A1 : Word) &&& 0x7FFFFFFF ≠ 0 ∧ fFinite 0x3F800000 = true ∧
      Voice.silent.x1 = 0 ∧ Voice.silent.x2 = 0 ∧ Voice.silent.y1 = 0 ∧ Voice.silent.y2 = 0 ∧
      Voice.silent.low = 0 ∧ Voice.silent.band = 0 := by decide +kernel

/-- The filters of both topologies. -/
theorem witness_FilterStepIsTheRecurrence :
    tc1.ctrl.topo = .stateVariable ∧ tableNumerics.svfF 0 0 = 0x3EE296A1 ∧ tableNumerics.svfQ 0 = 0x3F800000 ∧
      Settings.ctrl { tc1 with ctrl := ⟨.square, .biquad, .lowPass⟩ } = ⟨.square, .biquad, .lowPass⟩ ∧
      tableNumerics.bqCoeffs .lowPass 0 0 = ⟨0x3D19A96F, 0x3D99A96F, 0x3D19A96F, 0xBFB0EF2F, 0x3F0848BA⟩ :=
  ⟨rfl, rfl, rfl, rfl, rfl⟩

/-- A voice in each sounding state, and an attack on each side of PEAK. -/
theorem witness_SoundingVoiceSample :
    (∃ u y, filterStep tableNumerics (p28 true) tc1
      { n1Voice with phase := advancePhase n1Voice.phase n1Voice.inc }
      (oscOut tableNumerics tc1.ctrl.waveform n1Voice.phase) = (u, y)) ∧
      n1Voice.env = .attack ∧ fLe tc1.peak (fMul n1Voice.level n1Voice.mult) = false ∧
      fLe tc1.peak (fMul 0x3F7FFFFF n1Voice.mult) = true ∧ (heldVoice .decay).env = .decay ∧
      (heldVoice .sustain).env = .sustain ∧ (heldVoice .release).env = .release :=
  ⟨⟨_, _, rfl⟩, rfl, by decide +kernel, by decide +kernel, rfl, rfl, rfl⟩

/-- 1.0 and 3.0, whose quotient is rounded; and the largest finite value with the two addends around the overflow
bound, 2^103 and the value before it. -/
theorem witness_ArithmeticRoundsToNearestEven :
    floatValue 0x3F800000 = .fin false (2 ^ 149) ∧ floatValue 0x40400000 = .fin false (3 * 2 ^ 149) ∧
      3 * 2 ^ 149 ≠ 0 ∧ fDiv 0x3F800000 0x40400000 = 0x3EAAAAAB ∧
      floatValue 0x7F7FFFFF = .fin false ((2 ^ 24 - 1) * 2 ^ 253) ∧ floatValue 0x73000000 = .fin false (2 ^ 252) ∧
      fAdd 0x7F7FFFFF 0x73000000 = 0x7F800000 ∧ fAdd 0x7F7FFFFF 0x72FFFFFF = 0x7F7FFFFF := by decide +kernel

/-- A NaN, an infinity, a finite value and a zero. -/
theorem witness_ArithmeticOfSpecialOperands :
    floatValue 0x7FC00000 = .nan ∧ floatValue 0xFF800000 = .inf true ∧ floatValue 0x7F800000 = .inf false ∧
      floatValue 0x3F800000 = .fin false (2 ^ 149) ∧ floatValue 0x80000000 = .fin true 0 := by decide +kernel

/-- Each kind of operation has a step. -/
theorem witness_EnvelopeTransitionsAreTheTable :
    (∃ t, exec (.noteOn 0 69 90) (withVoice true n1Voice) = .next t) ∧
      (∃ t, exec (.noteOff 0 69 0) (ready28 true) = .next t) ∧
      (∃ t, exec (.noteOnVel0 0 69) (ready28 true) = .next t) ∧ (∃ t, exec .pull (ready28 true) = .next t) ∧
      (∃ t, exec .reset (ready28 true) = .next t) ∧ ∃ t, exec (.cfgRd 0x10) (ready28 true) = .next t :=
  ⟨⟨_, rfl⟩, ⟨_, rfl⟩, ⟨_, rfl⟩, ⟨_, pull_ready28⟩, ⟨_, rfl⟩, ⟨_, rfl⟩⟩

theorem witness_RampMultiplierIsPositive :
    (∃ m, rampMult tableNumerics (p28 true) 0x38000100 0x3F800000 0x3C23D70A = .ok m) ∧
      (∃ c, rampMult tableNumerics (p28 true) 0x3F000000 0x38000100 0x38D1B717 = .error c) ∧
      fFinite (fAdd 0x3F800000 (fDiv (fSub (tableNumerics.ln 0x3F800000) (tableNumerics.ln 0x38000100))
        (fMul 0x3C23D70A (fOfInt 28160)))) = true ∧ fLt 0 0x3F84B9DA = true :=
  ⟨⟨_, test_rampMult⟩, ⟨_, test_rampMult_invalid⟩, by decide +kernel, by decide +kernel⟩

/-- A logarithm that is a NaN except above 0.0. -/
def positiveLn : Numerics := { tableNumerics with ln := fun x => if fLt 0#32 x then x else 0x7FC00000 }

/-- A logarithm that keeps order above 0.0 and answers a NaN elsewhere, and each of the three procedures on a voice that keeps the invariant. -/
theorem witness_EnvelopeLevelStaysInRange :
    lnKeepsOrder positiveLn ∧ envelopeLegal (p28 true) tc1 ∧
      envelopeKept tc1 (heldVoice .sustain) ∧
      (∃ v, envKeyOn positiveLn (p28 true) tc1 (heldVoice .sustain) = .ok v) ∧
      (∃ v, envKeyOff positiveLn (p28 true) tc1 (heldVoice .sustain) = .ok v) ∧
      ∃ v, envAdvance positiveLn (p28 true) tc1 (heldVoice .sustain) = .ok v := by
  refine ⟨fun a b ha hb h => by simpa [positiveLn, ha, hb] using h, ?_, ?_, ⟨_, rfl⟩, ?_, ⟨_, rfl⟩⟩
  · unfold envelopeLegal
    decide +kernel
  · show levelInRange _ _
    unfold levelInRange
    decide +kernel
  · have h : (match envKeyOff positiveLn (p28 true) tc1 (heldVoice .sustain) with
      | .ok _ => true
      | .error _ => false) = true := by decide +kernel
    split at h
    next v hv => exact ⟨v, hv⟩
    next => cases h

theorem witness_EveryStepKeepsTheInvariant :
    (State.construction (p28 true)).wellKept ∧ step (State.construction (p28 true)) =
      .next (State.construction (p28 true)) := by
  refine ⟨⟨rfl, ⟨by decide, by decide⟩, fun r w h => ?_, by decide⟩, rfl⟩
  cases r <;> cases h

theorem witness_StateIsWrittenOnlyByItsOwners :
    (∃ t, exec .pull (ready28 true) = .next t) ∧ Instr.pull ≠ .reset ∧
      (∃ t, exec (.programChange 0 5 0) (ready28 true) = .next t) ∧ Instr.programChange 0 5 0 ≠ .pull ∧
      exec (.illegalSystem 0 0 0) (ready28 true) = .next ((ready28 true).takeFault .proto) ∧
      ((ready28 true).takeFault .proto).errProto ≠ (ready28 true).errProto :=
  ⟨⟨_, pull_ready28⟩, by decide, ⟨_, rfl⟩, by decide, rfl, by decide⟩

theorem witness_OutputsComeOnlyFromPullAndRead :
    ∃ t, exec .pull (ready28 true) = .next t := ⟨_, pull_ready28⟩

end Sys2Proof.Tests
end

section
/-! The scope family: the step of a presented operation, and binary32 arithmetic. -/

namespace Sys2Proof.Machine

/-! The step. -/

/-- A step takes the word the host presents next and performs its reading. -/
theorem step_of_arriving {s : State} {w : OpWord} {rest : List OpWord} (h : s.arriving = w :: rest) :
    step s = exec (decode w) { s with arriving := rest } := by
  simp only [step, State.takeOperation, h]

theorem step_present (s : State) (w : OpWord) : step (s.present w) = exec (decode w) s :=
  step_of_arriving (State.present_arriving s w)

/-- Settles O6: a step is `exec` of the word taken, and `withFetchWord` presents that word. -/
theorem stepRunsThePresentedOperation : Obligations.StepRunsThePresentedOperation := by
  refine ⟨fun s w rest i harriving hdecode => ?_, fun s _ w => step_present s _⟩
  rw [← hdecode]
  exact step_of_arriving harriving

/-! Special operands. Each operation answers the value its value function gives, and a NaN where it gives none. -/

@[simp] theorem addValues_nan_left (v : FloatValue) : addValues .nan v = none := rfl

@[simp] theorem addValues_nan_right (v : FloatValue) : addValues v .nan = none := by cases v <;> rfl

@[simp] theorem mulValues_nan_left (v : FloatValue) : mulValues .nan v = none := rfl

@[simp] theorem mulValues_nan_right (v : FloatValue) : mulValues v .nan = none := by cases v <;> rfl

@[simp] theorem divValues_nan_left (v : FloatValue) : divValues .nan v = none := rfl

@[simp] theorem divValues_nan_right (v : FloatValue) : divValues v .nan = none := by cases v <;> rfl

/-- The value of a result: `none` is the free NaN (log 4). -/
def resultValue (o : Option Word) : FloatValue := (o.map floatValue).getD .nan

@[simp] theorem resultValue_none : resultValue none = .nan := rfl

/-- By rewriting, so that simp does not take it for a definitional equation and leave the kernel to evaluate it. -/
@[simp] theorem resultValue_some (z : Word) : resultValue (some z) = floatValue z := by
  rw [resultValue, Option.map_some, Option.getD_some]

theorem floatValue_getD (o : Option Word) (op : FloatOp) (x y : Word) :
    floatValue (o.getD (resultNaN op x y)) = resultValue o := by
  cases o with
  | none => exact floatValue_resultNaN op x y
  | some z => rfl

theorem floatValue_fAdd (x y : Word) :
    floatValue (fAdd x y) = resultValue (addValues (floatValue x) (floatValue y)) := floatValue_getD _ _ _ _

theorem floatValue_fSub (x y : Word) :
    floatValue (fSub x y) = resultValue (addValues (floatValue x) (negValue (floatValue y))) := floatValue_getD _ _ _ _

theorem floatValue_fMul (x y : Word) :
    floatValue (fMul x y) = resultValue (mulValues (floatValue x) (floatValue y)) := floatValue_getD _ _ _ _

theorem floatValue_fDiv (x y : Word) :
    floatValue (fDiv x y) = resultValue (divValues (floatValue x) (floatValue y)) := floatValue_getD _ _ _ _

@[simp] theorem floatValue_zeroWord (neg : Bool) : floatValue (floatWord neg 0) = .fin neg 0 :=
  floatValue_floatWord (by decide)

section
variable {x y : Word} {a b : Bool} {m n : Nat}

theorem arithmetic_of_nan (h : floatValue x = .nan ∨ floatValue y = .nan) :
    floatValue (fAdd x y) = .nan ∧ floatValue (fSub x y) = .nan ∧ floatValue (fMul x y) = .nan ∧
      floatValue (fDiv x y) = .nan := by
  rw [floatValue_fAdd, floatValue_fSub, floatValue_fMul, floatValue_fDiv]
  rcases h with h | h <;> simp [h, negValue]

theorem arithmetic_of_inf_inf (hx : floatValue x = .inf a) (hy : floatValue y = .inf b) :
    floatValue (fAdd x y) = (if a = b then .inf a else .nan) ∧
    floatValue (fSub x y) = (if a = b then .nan else .inf a) ∧
    floatValue (fMul x y) = .inf (a ^^ b) ∧ floatValue (fDiv x y) = .nan := by
  rw [floatValue_fAdd, floatValue_fSub, floatValue_fMul, floatValue_fDiv, hx, hy]
  refine ⟨?_, ?_, by simp [mulValues], by simp [divValues]⟩
  · by_cases h : a = b <;> simp [addValues, h]
  · cases a <;> cases b <;> simp [negValue, addValues]

theorem arithmetic_of_inf_fin (hx : floatValue x = .inf a) (hy : floatValue y = .fin b n) :
    floatValue (fAdd x y) = .inf a ∧ floatValue (fSub x y) = .inf a ∧
    floatValue (fMul x y) = (if n = 0 then .nan else .inf (a ^^ b)) ∧ floatValue (fDiv x y) = .inf (a ^^ b) := by
  rw [floatValue_fAdd, floatValue_fSub, floatValue_fMul, floatValue_fDiv, hx, hy]
  refine ⟨by simp [addValues], by simp [negValue, addValues], ?_, by simp [divValues]⟩
  by_cases h : n = 0 <;> simp [mulValues, h]

theorem arithmetic_of_fin_inf (hx : floatValue x = .fin a m) (hy : floatValue y = .inf b) :
    floatValue (fAdd x y) = .inf b ∧ floatValue (fSub x y) = .inf (!b) ∧
    floatValue (fMul x y) = (if m = 0 then .nan else .inf (a ^^ b)) ∧ floatValue (fDiv x y) = .fin (a ^^ b) 0 := by
  rw [floatValue_fAdd, floatValue_fSub, floatValue_fMul, floatValue_fDiv, hx, hy]
  refine ⟨by simp [addValues], by simp [negValue, addValues], ?_, by simp [divValues]⟩
  by_cases h : m = 0 <;> simp [mulValues, h]

theorem floatValue_fDiv_zero (hx : floatValue x = .fin a m) (hy : floatValue y = .fin b 0) :
    floatValue (fDiv x y) = if m = 0 then .nan else .inf (a ^^ b) := by
  rw [floatValue_fDiv, hx, hy]
  by_cases h : m = 0 <;> simp [divValues, h]

end

/-- Settles O59, one lemma for each kind of operands. -/
theorem arithmeticOfSpecialOperands : Obligations.ArithmeticOfSpecialOperands :=
  fun _ _ _ _ _ _ => ⟨arithmetic_of_nan, arithmetic_of_inf_inf, arithmetic_of_inf_fin, arithmetic_of_fin_inf,
    floatValue_fDiv_zero⟩

/-! Rounding to nearest. A value lies between the magnitudes of two neighbouring patterns, and `roundMagnitude` selects
the nearer one; every other magnitude lies beyond one of the two. -/

/-- `num / den` lies at the pattern `bits` or between it and the next one. -/
def brackets (bits num den : Nat) : Prop :=
  magnitude bits * den ≤ num ∧ num < magnitude (bits + 1) * den

/-- `num / den` goes to the upper of the two neighbours: it is nearer, or equally near and the even one. -/
def roundsUp (bits num den : Nat) : Prop :=
  (magnitude bits + magnitude (bits + 1)) * den < 2 * num ∨
    ((magnitude bits + magnitude (bits + 1)) * den = 2 * num ∧ bits % 2 = 1)

/-- The magnitude after a mantissa; past the last mantissa of 24 bits it is 2^23 at the next step. -/
theorem magnitude_mantissa_succ {e m : Nat} (h1 : e ≠ 0 → 2 ^ 23 ≤ m) (h2 : m < 2 ^ 24) :
    magnitude (e * 2 ^ 23 + m + 1) = (m + 1) * 2 ^ e := by
  rcases Nat.lt_or_eq_of_le (Nat.succ_le_of_lt h2) with hlt | heq
  · rw [Nat.add_assoc, magnitude_mantissa (fun he => Nat.le_succ_of_le (h1 he)) hlt]
  · rw [show e * 2 ^ 23 + m + 1 = (e + 1) * 2 ^ 23 + 2 ^ 23 by omega, show m + 1 = 2 ^ 24 from heq,
      magnitude_mantissa (fun _ => Nat.le_refl _) (by decide), pow_succ]
    ring

/-- A rounding is the lower neighbour of its operand or the upper one, or infinity where that is past the largest
finite pattern. -/
theorem exists_brackets {num den : Nat} (hd : 0 < den) :
    ∃ low up, brackets low num den ∧ (up = low ∧ ¬ roundsUp low num den ∨ up = low + 1 ∧ roundsUp low num den) ∧
      roundMagnitude num den = min up 0x7F800000 := by
  obtain ⟨hlt, hge⟩ := exponentStep_spec (num := num) hd
  generalize he : exponentStep num den = e at hlt hge
  have hu : 0 < den * 2 ^ e := Nat.mul_pos hd (Nat.two_pow_pos e)
  have hm : num / (den * 2 ^ e) < 2 ^ 24 := (Nat.div_lt_iff_lt_mul hu).mpr hlt
  have hm' : e ≠ 0 → 2 ^ 23 ≤ num / (den * 2 ^ e) := fun h => (Nat.le_div_iff_mul_le hu).mpr (hge h)
  have hdiv := Nat.div_add_mod num (den * 2 ^ e)
  have hmod := Nat.mod_lt num hu
  have hround : roundMagnitude num den = min (e * 2 ^ 23 + roundHalfEven num (den * 2 ^ e)) 0x7F800000 := by
    rw [roundMagnitude, he]
  simp only [roundHalfEven] at hround
  generalize num / (den * 2 ^ e) = q at hm hm' hdiv hround
  generalize num % (den * 2 ^ e) = r at hdiv hmod hround
  have hlow : magnitude (e * 2 ^ 23 + q) * den = den * 2 ^ e * q := by
    rw [magnitude_mantissa hm' hm]
    ring
  have hup : magnitude (e * 2 ^ 23 + q + 1) * den = den * 2 ^ e * q + den * 2 ^ e := by
    rw [magnitude_mantissa_succ hm' hm]
    ring
  have hiff : roundsUp (e * 2 ^ 23 + q) num den ↔ den * 2 ^ e < 2 * r ∨ 2 * r = den * 2 ^ e ∧ q % 2 = 1 := by
    rw [roundsUp, Nat.add_mul, hlow, hup]
    omega
  refine ⟨e * 2 ^ 23 + q, _, ⟨by omega, by omega⟩, ?_, hround⟩
  rw [hiff]
  split
  next h => exact .inr ⟨(Nat.add_assoc _ _ _).symm, h⟩
  next h => exact .inl ⟨rfl, h⟩

/-- The midpoint above the largest finite pattern. -/
theorem magnitude_largest_add_infinity : magnitude 0x7F7FFFFF + magnitude 0x7F800000 = 2 * overflowUnits := by
  decide +kernel

/-- A rounding is finite exactly below the overflow bound. -/
theorem roundMagnitude_lt_infinity_iff {num den : Nat} (hd : 0 < den) :
    roundMagnitude num den < 0x7F800000 ↔ num < overflowUnits * den := by
  obtain ⟨low, up, ⟨hlow, hup⟩, hcase, hround⟩ := exists_brackets (num := num) hd
  have hmid := magnitude_largest_add_infinity
  have hlt : magnitude 0x7F7FFFFF < magnitude 0x7F800000 := magnitude_lt (by decide)
  rw [hround]
  rcases Nat.lt_trichotomy low 0x7F7FFFFF with h | rfl | h
  · have h1 : magnitude (low + 1) * den ≤ overflowUnits * den :=
      Nat.mul_le_mul_right den (by have := magnitude_le (show low + 1 ≤ 0x7F7FFFFF by omega); omega)
    omega
  · have h1 : (magnitude 0x7F7FFFFF + magnitude (0x7F7FFFFF + 1)) * den = 2 * (overflowUnits * den) := by
      rw [hmid, Nat.mul_assoc]
    rw [roundsUp, h1] at hcase
    omega
  · have h1 : overflowUnits * den ≤ magnitude low * den :=
      Nat.mul_le_mul_right den (by have := magnitude_le (show 0x7F800000 ≤ low by omega); omega)
    omega

/-- Every pattern is one of the two neighbours or lies strictly beyond one of them. -/
theorem magnitude_outside {low den : Nat} (hd : 0 < den) (bits : Nat) :
    magnitude bits * den < magnitude low * den ∨ bits = low ∨ bits = low + 1 ∨
      magnitude (low + 1) * den < magnitude bits * den := by
  have hlt : ∀ {a b : Nat}, a < b → magnitude a * den < magnitude b * den := fun h =>
    Nat.mul_lt_mul_of_pos_right (magnitude_lt h) hd
  rcases Nat.lt_trichotomy bits low with h | h | h
  · exact .inl (hlt h)
  · exact .inr (.inl h)
  · rcases Nat.eq_or_lt_of_le h with h | h
    · exact .inr (.inr (.inl h.symm))
    · exact .inr (.inr (.inr (hlt h)))

/-- No magnitude is nearer than that of a finite rounding, and an equally near one is its own or leaves it the even
pattern. -/
theorem roundMagnitude_nearest {num den : Nat} (hd : 0 < den) (hfin : roundMagnitude num den < 0x7F800000)
    (bits : Nat) :
    |(magnitude (roundMagnitude num den) : Int) * den - num| ≤ |(magnitude bits : Int) * den - num| ∧
      (|(magnitude (roundMagnitude num den) : Int) * den - num| = |(magnitude bits : Int) * den - num| →
        bits = roundMagnitude num den ∨ roundMagnitude num den % 2 = 0) := by
  obtain ⟨low, up, ⟨hlow, hup⟩, hcase, hround⟩ := exists_brackets (num := num) hd
  obtain rfl : roundMagnitude num den = up := by omega
  have hbits := magnitude_outside (low := low) hd bits
  rw [roundsUp, Nat.add_mul] at hcase
  rw [Int.abs_eq_natAbs, Int.abs_eq_natAbs]
  rcases hcase with ⟨heq, hdown⟩ | ⟨heq, hup⟩
  · rw [heq]
    rcases hbits with h | rfl | rfl | h <;> omega
  · rw [heq]
    rcases hbits with h | rfl | rfl | h <;> omega

/-! Signs. -/

theorem signedUnits_not (neg : Bool) (mag : Nat) : signedUnits (!neg) mag = -signedUnits neg mag := by
  cases neg <;> simp [signedUnits]

theorem signedUnits_mul (a b : Bool) (m n : Nat) :
    signedUnits a m * signedUnits b n = signedUnits (a ^^ b) (m * n) := by
  cases a <;> cases b <;> simp [signedUnits]

@[simp] theorem signedUnits_natAbs (neg : Bool) (mag : Nat) : (signedUnits neg mag).natAbs = mag := by
  cases neg <;> simp [signedUnits]

theorem signedUnits_zero (neg : Bool) : signedUnits neg 0 = 0 := by
  cases neg <;> rfl

/-- A number is its magnitude with its sign. -/
theorem signedUnits_decide_natAbs (k : Int) : signedUnits (decide (k < 0)) k.natAbs = k := by
  simp only [signedUnits, decide_eq_true_eq]
  split <;> omega

@[simp] theorem abs_signedUnits (neg : Bool) (mag : Nat) : |signedUnits neg mag| = mag := by
  cases neg <;> simp [signedUnits]

/-- The distance of two values of the same sign is that of their magnitudes. -/
theorem abs_signedUnits_same (neg : Bool) (mag num den : Nat) :
    |signedUnits neg mag * den - signedUnits neg num| = |(mag : Int) * den - num| := by
  cases neg
  · rfl
  · have h : signedUnits true mag * den - signedUnits true num = -((mag : Int) * den - num) := by
      simp only [signedUnits, if_true]
      ring
    rw [h, abs_neg]

/-- Across zero, the distance is the sum of the magnitudes. -/
theorem abs_signedUnits_opposite (neg : Bool) (mag num den : Nat) :
    |signedUnits (!neg) mag * den - signedUnits neg num| = (mag : Int) * den + num := by
  have h : signedUnits (!neg) mag * den - signedUnits neg num = signedUnits (!neg) (mag * den + num) := by
    cases neg <;> simp only [signedUnits, Bool.not_false, Bool.not_true, if_true, Bool.false_eq_true, if_false] <;>
      push_cast <;> ring
  rw [h, abs_signedUnits]
  push_cast
  rfl

/-- The last bit of a pattern. -/
theorem floatWord_getLsbD_zero {neg : Bool} {bits : Nat} (h : bits < 2 ^ 31) (heven : bits % 2 = 0) :
    (floatWord neg bits).getLsbD 0 = false := by
  rw [BitVec.getLsbD, floatWord_toNat h, Nat.testBit_zero]
  simp only [decide_eq_false_iff_not]
  split <;> omega

/-- A finite rounding is the nearest binary32, the even one of two equally near. -/
theorem roundWord_nearestEven {neg : Bool} {num den : Nat} (hd : 0 < den)
    (hfin : roundMagnitude num den < 0x7F800000) :
    nearestEven (roundWord neg num den) (signedUnits neg num) den := by
  have heven : roundMagnitude num den % 2 = 0 → (roundWord neg num den).getLsbD 0 = false :=
    floatWord_getLsbD_zero (by omega)
  refine ⟨neg, magnitude (roundMagnitude num den), floatValue_floatWord hfin, fun y t n hy => ?_⟩
  obtain ⟨bits, -, -, rfl⟩ := floatValue_fin hy
  rw [abs_signedUnits_same]
  by_cases ht : t = neg
  · rw [ht, abs_signedUnits_same]
    obtain ⟨hle, htie⟩ := roundMagnitude_nearest hd hfin bits
    exact ⟨hle, fun h => (htie h).imp (fun hb => by rw [hb]) heven⟩
  · obtain rfl : t = !neg := Bool.eq_not_iff.mpr ht
    obtain ⟨hle, htie⟩ := roundMagnitude_nearest hd hfin 0
    have hzero : |((magnitude 0 : Nat) : Int) * den - num| = num := by simp
    have hnn : (0 : Int) ≤ (magnitude bits : Int) * den := by positivity
    rw [abs_signedUnits_opposite]
    rw [hzero] at hle htie
    refine ⟨by omega, fun h => ?_⟩
    have hb : magnitude bits = 0 := by
      have : (magnitude bits : Int) * den = 0 := by omega
      simpa [hd.ne'] using this
    refine (htie (by omega)).imp (fun hr => ?_) heven
    rw [hb, ← hr, magnitude_zero, signedUnits_zero, signedUnits_zero]

/-- Rounding a signed quotient (00_scope.md R7): nearest even below the overflow bound, an infinity from it on. -/
theorem roundWord_roundedNearest {neg : Bool} {num den : Nat} (hd : 0 < den) :
    roundedNearest (roundWord neg num den) (signedUnits neg num) den := by
  rw [roundedNearest, signedUnits_natAbs]
  split
  next h => exact roundWord_nearestEven hd ((roundMagnitude_lt_infinity_iff hd).mpr h)
  next h =>
    have hnum : 0 < num := by
      have : 0 < overflowUnits * den := Nat.mul_pos (by decide) hd
      omega
    have hsign : decide (signedUnits neg num < 0) = neg := by
      cases neg <;> simp [signedUnits, hnum]
    rw [floatValue_roundWord, if_neg (fun hfin => h ((roundMagnitude_lt_infinity_iff hd).mp hfin)), hsign]

theorem roundWord_msb (neg : Bool) (num den : Nat) : (roundWord neg num den).msb = neg :=
  floatWord_msb (by have := roundMagnitude_le_inf num den; omega)

/-! Sums. -/

/-- The zero sum of two finite values. -/
theorem addFinite_of_sum_zero {s t : Bool} {m n : Nat} (h : signedUnits s m + signedUnits t n = 0) :
    addFinite s m t n = if s && t then 0x80000000 else 0 := by
  rw [addFinite, if_pos h]
  cases s <;> cases t <;> rfl

/-- A sum is rounded as any other result: its zero too is the rounding of zero. -/
theorem addFinite_roundedNearest (s t : Bool) (m n : Nat) :
    roundedNearest (addFinite s m t n) (signedUnits s m + signedUnits t n) 1 := by
  unfold addFinite
  generalize signedUnits s m + signedUnits t n = sum
  simp only
  split
  next h =>
    have hr := roundWord_roundedNearest (neg := s && t) (num := 0) Nat.one_pos
    rwa [signedUnits_zero, roundWord, roundMagnitude_zero Nat.one_pos, ← h] at hr
  next h =>
    have hr := roundWord_roundedNearest (neg := decide (sum < 0)) (num := sum.natAbs) Nat.one_pos
    rwa [signedUnits_decide_natAbs] at hr

/-- Settles O49: every finite result is a `roundWord`, whose rounding is `roundWord_roundedNearest`. -/
theorem arithmeticRoundsToNearestEven : Obligations.ArithmeticRoundsToNearestEven := by
  intro x y a b m n hx hy
  have hsub : signedUnits a m - signedUnits b n = signedUnits a m + signedUnits (!b) n := by
    rw [signedUnits_not, sub_eq_add_neg]
  rw [fAdd_fin hx hy, fSub_fin hx hy, fMul_fin hx hy, signedUnits_mul, hsub]
  refine ⟨addFinite_roundedNearest a b m n, addFinite_roundedNearest a (!b) m n,
    roundWord_roundedNearest (Nat.two_pow_pos _), fun hn => ?_, addFinite_of_sum_zero, addFinite_of_sum_zero,
    roundWord_msb _ _ _, fun hn => ?_⟩
  · rw [fDiv_fin hx hy hn]
    exact roundWord_roundedNearest (Nat.pos_of_ne_zero hn)
  · rw [fDiv_fin hx hy hn]
    exact roundWord_msb _ _ _

end Sys2Proof.Machine
end

section
/-! The state family: what the registers read, their legal values, the flags, and what every step keeps. -/

namespace Sys2Proof.Machine

/-! The addresses (10_state.md R20, R21). -/

/-- The reserved addresses are the three ranges of 10_state.md R21. -/
theorem regAt_eq_reserved_iff (a : BitVec 8) :
    regAt a = .reserved ↔
      (0x0C ≤ a.toNat ∧ a.toNat ≤ 0x0F) ∨ (0x17 ≤ a.toNat ∧ a.toNat ≤ 0x3F) ∨ 0xC0 ≤ a.toNat := by
  revert a
  decide

theorem regAt_voiceStat (i : Slot) : regAt (BitVec.ofNat 8 (0x40 + i.val)) = .voiceStat i := by
  revert i
  decide

theorem regAt_voiceElapsed (i : Slot) : regAt (BitVec.ofNat 8 (0x60 + i.val)) = .voiceElapsed i := by
  revert i
  decide

theorem regAt_voiceLevel (i : Slot) : regAt (BitVec.ofNat 8 (0x80 + i.val)) = .voiceLevel i := by
  revert i
  decide

theorem regAt_voicePhase (i : Slot) : regAt (BitVec.ofNat 8 (0xA0 + i.val)) = .voicePhase i := by
  revert i
  decide

/-! Refused accesses (44_config_access.md R80, 60_exceptions.md R85). -/

theorem takeFault_cfg_eq (s : State) :
    s.takeFault .cfg = { s with errCfg := true, mode := .faulted, faultCause := 2 } := rfl

theorem flagged_cfg_eq (s : State) : s.flagged .cfg = { s with errCfg := true } := rfl

theorem writeRefused_eq (s : State) : writeRefused s = .next (afterCfgRefused s) := by
  rw [writeRefused_eq_next, takeFault_cfg_eq, flagged_cfg_eq, afterCfgRefused]
  cases s.params.strict <;> simp

theorem readRefused_eq (s : State) :
    readRefused s = .next (if s.params.strict then afterCfgRefused s
      else { s with errCfg := true, observed := s.observed ++ [.word 0] }) := by
  rw [readRefused_eq_next, takeFault_cfg_eq, flagged_cfg_eq, afterCfgRefused]
  cases s.params.strict <;> simp [State.emit]

theorem execCfgWr_reserved {s : State} {a : BitVec 8} {data : Word} (hm : s.mode = .run)
    (ha : regAt a = .reserved) : execCfgWr a data s = writeRefused s := by
  simp [execCfgWr, whenRunning_run hm, ha]

theorem execCfgRd_reserved {s : State} {a : BitVec 8} (hm : s.mode = .run) (ha : regAt a = .reserved) :
    execCfgRd a s = readRefused s := by
  simp [execCfgRd, State.readReg, hm, ha]

/-- Settles O20: both kinds of access to a reserved address are refused, and a refusal follows the policy. -/
theorem reservedAddressesAreRefused : Obligations.ReservedAddressesAreRefused := by
  refine fun s a data => ⟨regAt_eq_reserved_iff a, fun hm ha => ⟨?_, ?_⟩⟩
  · exact (execCfgWr_reserved hm ha).trans (writeRefused_eq s)
  · exact (execCfgRd_reserved hm ha).trans (readRefused_eq s)

/-! The status words (10_state.md R20), read from the least field up. -/

/-- A field of a concatenation above its low part. -/
theorem extractLsb'_above {a b len start : Nat} {x : BitVec len} {hi : BitVec a} {lo : BitVec b} (hs : b ≤ start)
    (h : hi.extractLsb' (start - b) len = x) : (hi ++ lo).extractLsb' start len = x := by
  rw [BitVec.extractLsb'_append_eq_of_le hs, h]

/-- The low part of a concatenation. -/
theorem extractLsb'_low {a len : Nat} {hi : BitVec a} {lo : BitVec len} : (hi ++ lo).extractLsb' 0 len = lo :=
  BitVec.extractLsb'_append_eq_right

/-- A field of one bit is that bit. -/
theorem getLsbD_of_extractLsb'_ofBool {w start : Nat} {x : BitVec w} {b : Bool}
    (h : x.extractLsb' start 1 = BitVec.ofBool b) : x.getLsbD start = b := by
  have hbit := congrArg (fun y => y.getLsbD 0) h
  simpa using hbit

theorem statusWord_bits (s : State) :
    (statusWord s).getLsbD 0 = (s.mode == .faulted) ∧ (statusWord s).getLsbD 1 = s.errProto ∧
      (statusWord s).getLsbD 2 = s.errCfg ∧ (statusWord s).getLsbD 3 = s.errNumeric :=
  ⟨getLsbD_of_extractLsb'_ofBool extractLsb'_low,
    getLsbD_of_extractLsb'_ofBool (extractLsb'_above (by decide) extractLsb'_low),
    getLsbD_of_extractLsb'_ofBool (extractLsb'_above (by decide) <| extractLsb'_above (by decide) extractLsb'_low),
    getLsbD_of_extractLsb'_ofBool (extractLsb'_above (by decide) <| extractLsb'_above (by decide) <|
      extractLsb'_above (by decide) extractLsb'_low)⟩

theorem statusWord_fields (s : State) :
    (statusWord s).extractLsb' 4 4 = s.faultCause ∧ (statusWord s).extractLsb' 8 24 = 0 := by
  have above {len start : Nat} {x : BitVec len} (hs : 4 ≤ start)
      (h : (0#24 ++ s.faultCause).extractLsb' (start - 1 - 1 - 1 - 1) len = x) :
      (statusWord s).extractLsb' start len = x :=
    extractLsb'_above (by omega) <| extractLsb'_above (by omega) <| extractLsb'_above (by omega) <|
      extractLsb'_above (by omega) h
  exact ⟨above (by decide) extractLsb'_low,
    above (by decide) (extractLsb'_above (by decide) BitVec.extractLsb'_eq_self)⟩

theorem voiceStatWord_fields (v : Voice) :
    (voiceStatWord v).extractLsb' 0 7 = v.key ∧ (voiceStatWord v).extractLsb' 7 1 = 0 ∧
      (voiceStatWord v).extractLsb' 8 3 = envCode v.env ∧ (voiceStatWord v).extractLsb' 11 5 = 0 ∧
      (voiceStatWord v).extractLsb' 16 7 = v.vel ∧ (voiceStatWord v).extractLsb' 23 9 = 0 := by
  have aboveEnv {len start : Nat} {x : BitVec len} (hs : 11 ≤ start)
      (h : (0#9 ++ v.vel ++ 0#5).extractLsb' (start - 7 - 1 - 3) len = x) :
      (voiceStatWord v).extractLsb' start len = x :=
    extractLsb'_above (by omega) <| extractLsb'_above (by omega) <| extractLsb'_above (by omega) h
  exact ⟨extractLsb'_low, extractLsb'_above (by decide) extractLsb'_low,
    extractLsb'_above (by decide) (extractLsb'_above (by decide) extractLsb'_low),
    aboveEnv (by decide) extractLsb'_low,
    aboveEnv (by decide) (extractLsb'_above (by decide) extractLsb'_low),
    aboveEnv (by decide) (extractLsb'_above (by decide) (extractLsb'_above (by decide) BitVec.extractLsb'_eq_self))⟩

theorem zero_append_eq_zeroExtend (x : BitVec 7) : 0#25 ++ x = x.zeroExtend 32 :=
  (BitVec.setWidth_eq_append (by decide)).symm

/-- Settles O23: the two composed words field by field; every other status register is a field of the state. -/
theorem statusWordLayout : Obligations.StatusWordLayout := by
  intro s i
  obtain ⟨hfault, hproto, hcfg, hnumeric⟩ := statusWord_bits s
  obtain ⟨hcause, hrest⟩ := statusWord_fields s
  obtain ⟨hkey, h7, henv, h11, hvel, h23⟩ := voiceStatWord_fields (s.voice i)
  rw [regAt_voiceStat, regAt_voiceElapsed, regAt_voiceLevel, regAt_voicePhase]
  refine ⟨statusWord s, voiceStatWord (s.voice i), rfl, rfl, hfault, hproto, hcfg, hnumeric, hcause, hrest, hkey, h7,
    henv.trans ?_, h11, hvel, h23,
    congrArg some (zero_append_eq_zeroExtend s.program), rfl, rfl, rfl, rfl, rfl, rfl, rfl, rfl⟩
  cases (s.voice i).env <;> rfl

/-! Legal values (10_state.md R19). -/

theorem filterTypeOf_isSome_iff (code : BitVec 2) : (filterTypeOf code).isSome = true ↔ code ≠ 3 := by
  revert code
  decide

theorem ctrlOf_isSome_iff (data : Word) :
    (ctrlOf data).isSome = true ↔ data.extractLsb' 5 27 = 0 ∧ data.extractLsb' 3 2 ≠ 3 := by
  unfold ctrlOf
  split
  next h => simp [h, filterTypeOf_isSome_iff]
  next h => simp [h]

theorem finiteAbove_iff {bound data : Word} :
    finiteAbove bound data = true ↔ fFinite data = true ∧ fLt bound data = true := by
  simp [finiteAbove]

theorem zeroToOne_iff {data : Word} :
    zeroToOne data = true ↔ fLe 0 data = true ∧ fLe data 0x3F800000 = true := by
  simp [zeroToOne]

theorem zeroToOne_finite {data : Word} (h : zeroToOne data = true) : fFinite data = true := by
  obtain ⟨hlo, hhi⟩ := zeroToOne_iff.mp h
  exact fFinite_of_between (by decide) (by decide) hlo hhi

/-- CUTOFF lies below half the sample rate (10_state.md R19). -/
theorem legalValue_cutoff_iff {p : Params} {data : Word} :
    legalValue p .cutoff data = true ↔
      fFinite data = true ∧ fLt 0 data = true ∧ fLt data (fMul (fOfInt p.sampleRate) 0x3F000000) = true := by
  simp [legalValue, finiteAbove_iff, rateWord, and_assoc]

theorem legalValue_finite {p : Params} {r : CfgReg} {data : Word} (hr : r ≠ .ctrl)
    (h : legalValue p r data = true) : fFinite data = true := by
  cases r
  case ctrl => exact absurd rfl hr
  case cutoff => exact (legalValue_cutoff_iff.mp h).1
  case peak | sustain | attackT | decayT | releaseT | resonance => exact (finiteAbove_iff.mp h).1
  case volUp | volDown | panUp | panDown => exact zeroToOne_finite h

/-- Settles O24: one lemma for each kind of register. -/
theorem legalValuesAreFinite : Obligations.LegalValuesAreFinite := by
  refine fun p r data => ⟨ctrlOf_isSome_iff data, legalValue_finite, ?_, ?_, legalValue_cutoff_iff, ?_⟩
  · rintro (rfl | rfl) <;> exact finiteAbove_iff
  · rintro (rfl | rfl | rfl | rfl) <;> exact finiteAbove_iff
  · rintro (rfl | rfl | rfl | rfl) <;> exact zeroToOne_iff

/-! The error flags (10_state.md R13). -/

/-- Where an operation may set the flag of a cause; causes 4 and 5 have none (60_exceptions.md R84 to R86). -/
def flagSource (i : Instr) (s : State) : Cause → Prop
  | .proto => protocolError s.params i = true
  | .cfg => accessRefused s.params i
  | .numeric => i = .pull ∧ outputNotFinite s
  | .cfgUnset => True
  | .envParam => True

theorem flagSource_of_mayRaise {i : Instr} {s : State} {c : Cause} (h : mayRaise i s c) : flagSource i s c := by
  cases c with
  | proto => exact h.2
  | cfg => exact h.2
  | numeric => exact h.2
  | cfgUnset => trivial
  | envParam => trivial

/-- Two states with the same three flags. -/
def State.flagsEq (s t : State) : Prop :=
  t.errProto = s.errProto ∧ t.errCfg = s.errCfg ∧ t.errNumeric = s.errNumeric

/-- What an operation other than RESET does to the flags: it sets the flag of a cause it is a source of (or none, for
the causes without a flag), or it writes `STATUS`. -/
theorem exec_flags {i : Instr} {s t : State} (h : exec i s = .next t) (hi : i ≠ .reset) :
    (∃ c, flagSource i s c ∧ (s.flagged c).flagsEq t) ∨ ∃ d, i = .cfgWr 0x10 d ∧ (s.clearFlags d).flagsEq t := by
  have unchanged (ht : s.flagsEq t) : ∃ c, flagSource i s c ∧ (s.flagged c).flagsEq t := ⟨.cfgUnset, trivial, ht⟩
  cases exec_next h with
  | fault c hm ht hc => exact .inl ⟨c, flagSource_of_mayRaise hc, by simp [ht, State.flagsEq]⟩
  | protoLogged hm ht hsrc => exact .inl ⟨.proto, hsrc, by simp [ht, State.flagsEq]⟩
  | writeLogged hm ht hw hsrc => exact .inl ⟨.cfg, hsrc, by simp [ht, State.flagsEq]⟩
  | readLogged hm ht hr hsrc => exact .inl ⟨.cfg, hsrc, by simp [ht, State.flagsEq]⟩
  | silenced hm g hg vs acc hr hst ht hpull hsrc =>
    exact .inl ⟨.numeric, ⟨hpull, hsrc⟩, by simp [ht, State.flagsEq]⟩
  | cleared hm d a ha ht hwr => exact .inr ⟨d, by rw [hwr, eq_status_of_regAt ha], by simp [ht, State.flagsEq]⟩
  | reset ht hreset => exact absurd hreset hi
  | same hm ht | vol hm x ht | pan hm x ht | program hm x ht | bend hm x ht | noteOn hm g hg note vel pk v hp hv ht
  | noteOff hm g hg note pk v k hp hb hv ht | pulled hm g hg vs acc hr l r hl hf ht | wrote hm r d a ha hl ht
  | read w ht => exact .inl (unchanged (by simp [ht, State.flagsEq]))

/-- Settles O15, from the two things `exec_flags` leaves. -/
theorem errorFlagsAreSticky : Obligations.ErrorFlagsAreSticky := by
  intro i s t h hi
  rcases exec_flags h hi with ⟨c, hsrc, hproto, hcfg, hnumeric⟩ | ⟨d, rfl, hproto, hcfg, hnumeric⟩
  · rw [hproto, hcfg, hnumeric]
    cases c <;> simp_all [flagSource]
  · rw [hproto, hcfg, hnumeric]
    simp_all

/-! The invariant (10_state.md R12, R14, R15, R19). -/

/-- The invariant speaks of the mode, the cause, the keys, the configuration and the parameters alone. -/
theorem State.wellKept_congr {s t : State} (h : s.wellKept) (hmode : t.mode = s.mode)
    (hcause : t.faultCause = s.faultCause) (hkeys : ∀ i, (t.voice i).key = (s.voice i).key) (hcfg : t.cfg = s.cfg)
    (hparams : t.params = s.params) : t.wellKept := by
  simpa only [State.wellKept, State.causeMatchesMode, State.keysDistinct, State.configLegal, hmode, hcause, hkeys, hcfg,
    hparams] using h

theorem State.wellKept_construction {p : Params} (hp : p.rateInRange) : (State.construction p).wellKept := by
  have hvoice : ∀ i, ((State.construction p).voice i).key = Config.keyOff := fun i => by
    simp [State.voice, State.construction, Voice.silent]
  refine ⟨rfl, ⟨fun i => ?_, fun i j _ hne => absurd (hvoice i) hne⟩, fun r w hr => ?_, hp⟩
  · rw [hvoice i]
    decide
  · cases r <;> cases hr

theorem Config.params_rateInRange : Config.params.rateInRange := by
  have := Config.rateAboveLeast.isLt
  simp only [Params.rateInRange, Config.params, Config.sampleRate]
  omega

/-- Settles O54: the start state is a construction state, of parameters in range. -/
theorem resetStateIsWellKept : Obligations.ResetStateIsWellKept :=
  State.wellKept_construction Config.params_rateInRange

theorem State.wellKept_reconstructed {s : State} (h : s.wellKept) : s.reconstructed.wellKept := by
  obtain ⟨-, -, -, hrate⟩ := h
  exact State.wellKept_congr (State.wellKept_construction hrate) rfl rfl (fun _ => rfl) rfl rfl

theorem State.wellKept_takeFault {s : State} (h : s.wellKept) (c : Cause) : (s.takeFault c).wellKept := by
  obtain ⟨-, hkeys, hlegal, hrate⟩ := h
  refine ⟨?_, ?_, ?_, ?_⟩
  · simp [State.causeMatchesMode]
  · simpa [State.keysDistinct] using hkeys
  · simpa [State.configLegal] using hlegal
  · simpa using hrate

/-- A legal write leaves every register `UNSET` or legal. -/
theorem State.wellKept_write {s : State} (h : s.wellKept) {r : CfgReg} {d : Word}
    (hl : legalValue s.params r d = true) : State.wellKept { s with cfg := s.cfg.write r d } := by
  obtain ⟨hcause, hkeys, hlegal, hrate⟩ := h
  refine ⟨hcause, hkeys, fun r' w hw => ?_, hrate⟩
  rcases read_write_legal hl hw with ⟨rfl, hw⟩ | hw
  · exact hw
  · exact hlegal r' w hw

/-- No voice but the selected one is bound to the key: a bound voice is the one selected (40_channel_commands.md R46
step (a)). -/
theorem key_ne_of_ne_selectSlot {s : State} {pk : BitVec 7} {j : Slot} (h : s.keysDistinct) (hpk : pk ≠ Config.keyOff)
    (hj : j ≠ selectSlot s pk) : (s.voice j).key ≠ pk := by
  intro hkey
  cases hb : boundSlot s pk with
  | none => exact boundSlot_none hb j hkey
  | some i =>
    have hsel : selectSlot s pk = i := by simp [selectSlot, hb]
    exact hj (hsel ▸ h.2 j i (hkey.trans (boundSlot_some hb).symm) (hkey ▸ hpk))

/-- A note-on binds its key to the selected voice alone. -/
theorem keysDistinct_noteOn {s : State} {pk : BitVec 7} {v : Voice} (h : s.keysDistinct) (hpk : pk ≠ Config.keyOff)
    (hle : pk.toNat ≤ 88) (hv : v.key = pk) : (s.setVoice (selectSlot s pk) v).keysDistinct := by
  have hother {j : Slot} (hj : j ≠ selectSlot s pk) := key_ne_of_ne_selectSlot h hpk hj
  refine ⟨fun i => ?_, fun i j hij hbound => ?_⟩
  · by_cases hi : i = selectSlot s pk
    · simpa [hi, hv] using hle
    · rw [State.voice_setVoice_other hi]
      exact h.1 i
  · by_cases hi : i = selectSlot s pk <;> by_cases hj : j = selectSlot s pk
    · rw [hi, hj]
    · rw [hi, State.voice_setVoice_same, State.voice_setVoice_other hj, hv] at hij
      exact absurd hij.symm (hother hj)
    · rw [hj, State.voice_setVoice_same, State.voice_setVoice_other hi, hv] at hij
      exact absurd hij (hother hi)
    · rw [State.voice_setVoice_other hi] at hij hbound
      rw [State.voice_setVoice_other hj] at hij
      exact h.2 i j hij hbound

/-- A PianoKey is a bound key. -/
theorem pianoKey_ne_keyOff {note pk : BitVec 7} (h : pianoKey note = some pk) : pk ≠ Config.keyOff := by
  rintro rfl
  obtain ⟨-, hpos, -⟩ := pianoKey_range h
  exact absurd hpos (by decide)

theorem State.wellKept_noteOn {s : State} (h : s.wellKept) {note pk : BitVec 7} {v : Voice}
    (hp : pianoKey note = some pk) (hv : v.key = pk) : (s.setVoice (selectSlot s pk) v).wellKept := by
  obtain ⟨hcause, hkeys, hlegal, hrate⟩ := h
  obtain ⟨-, -, hle⟩ := pianoKey_range hp
  exact ⟨hcause, keysDistinct_noteOn hkeys (pianoKey_ne_keyOff hp) hle hv, hlegal, hrate⟩

/-- A voice replaced by one of the same key leaves every slot's key. -/
theorem voice_key_setVoice {s : State} {k : Slot} {v : Voice} (hv : v.key = (s.voice k).key) (i : Slot) :
    ((s.setVoice k v).voice i).key = (s.voice i).key := by
  by_cases hi : i = k
  · rw [hi, State.voice_setVoice_same, hv]
  · rw [State.voice_setVoice_other hi]

theorem envKeyOff_key {n : Numerics} {p : Params} {g : Settings} {v v' : Voice} (h : envKeyOff n p g v = .ok v') :
    v'.key = v.key := by
  obtain ⟨e, m, rfl⟩ := envKeyOff_frame h
  rfl

/-- A pull leaves every slot's key. -/
theorem voice_key_pulledState {n : Numerics} {p : Params} {g : Settings} {s : State} {vs : Vector Voice 32} {acc : Word}
    (h : renderSlots n p g slots s.voices 0#32 = .ok (vs, acc)) (i : Slot) :
    ((pulledState g vs s).voice i).key = (s.voice i).key := by
  obtain ⟨y, hy⟩ := render_slot h i
  rw [State.voice_pulledState, tickElapsed_key, (voiceSample_frame hy).1]
  rfl

/-- Every operation keeps the invariant. -/
theorem exec_wellKept {i : Instr} {s t : State} (hs : s.wellKept) (h : exec i s = .next t) : t.wellKept := by
  cases exec_next h with
  | fault c hm ht => exact ht ▸ State.wellKept_takeFault hs c
  | noteOn hm g hg note vel pk v hp hv ht => exact ht ▸ State.wellKept_noteOn hs hp (keyOnVoice_written hv).1
  | wrote hm r d a ha hl ht => exact ht ▸ State.wellKept_write hs hl
  | reset ht => exact ht ▸ State.wellKept_reconstructed hs
  | noteOff hm g hg note pk v k hp hb hv ht =>
    exact State.wellKept_congr hs (by simp [ht]) (by simp [ht])
      (fun j => ht ▸ voice_key_setVoice (envKeyOff_key hv) j) (by simp [ht]) (by simp [ht])
  | pulled hm g hg vs acc hr l r hl hf ht | silenced hm g hg vs acc hr hst ht =>
    exact State.wellKept_congr hs (by simp [ht]) (by simp [ht])
      (fun j => by simpa [ht] using voice_key_pulledState hr j) (by simp [ht]) (by simp [ht])
  | protoLogged hm ht | writeLogged hm ht | readLogged hm ht =>
    exact State.wellKept_congr hs (by simp [ht]) (by simp [ht]) (by simp [ht]) (by simp [ht]) (by simp [ht])
  | same hm ht | vol hm x ht | pan hm x ht | program hm x ht | bend hm x ht | cleared hm d a ha ht | read w ht =>
    exact ht ▸ hs

/-- Settles O53: a step is an operation on the state with the word taken, or no change; the words the host has yet to
present are no part of the invariant. -/
theorem everyStepKeepsTheInvariant : Obligations.EveryStepKeepsTheInvariant := by
  intro s t hs h
  cases harr : s.arriving with
  | nil =>
    simp only [step, State.takeOperation, harr, next_inj] at h
    exact h ▸ hs
  | cons w rest =>
    rw [step_of_arriving harr] at h
    exact exec_wellKept (s := { s with arriving := rest }) hs h

end Sys2Proof.Machine
end

section
/-! The level of an envelope (10_state.md R15): the order of binary32 values, the direction of a ramp multiplier, and
the invariant each envelope procedure keeps. -/

namespace Sys2Proof.Machine

/-! Order. -/

section
variable {x y z : Word}

theorem fLe_iff : fLe x y = true ↔
    ∃ a b, position (floatValue x) = some a ∧ position (floatValue y) = some b ∧ a ≤ b := by
  unfold fLe
  cases position (floatValue x) <;> cases position (floatValue y) <;> simp

theorem fLt_iff : fLt x y = true ↔
    ∃ a b, position (floatValue x) = some a ∧ position (floatValue y) = some b ∧ a < b := by
  unfold fLt
  cases position (floatValue x) <;> cases position (floatValue y) <;> simp

theorem exists_position (h : floatValue x ≠ .nan) : ∃ a, position (floatValue x) = some a := by
  cases hx : floatValue x with
  | nan => exact absurd hx h
  | inf neg => exact ⟨_, rfl⟩
  | fin neg mag => exact ⟨_, rfl⟩

theorem ne_nan_of_position {a : Int} (h : position (floatValue x) = some a) : floatValue x ≠ .nan := by
  intro hnan
  simp [hnan, position] at h

theorem ne_nan_of_fFinite (h : fFinite x = true) : floatValue x ≠ .nan := by
  obtain ⟨neg, mag, hx⟩ := fFinite_iff.mp h
  simp [hx]

theorem ne_nan_of_fLe (h : fLe x y = true) : floatValue x ≠ .nan ∧ floatValue y ≠ .nan := by
  obtain ⟨a, b, hx, hy, -⟩ := fLe_iff.mp h
  exact ⟨ne_nan_of_position hx, ne_nan_of_position hy⟩

theorem fLe_of_not_fLt (hx : floatValue x ≠ .nan) (hy : floatValue y ≠ .nan) (h : ¬ fLt y x = true) :
    fLe x y = true := by
  obtain ⟨a, hx⟩ := exists_position hx
  obtain ⟨b, hy⟩ := exists_position hy
  exact fLe_iff.mpr ⟨a, b, hx, hy, not_lt.mp fun hlt => h (fLt_iff.mpr ⟨b, a, hy, hx, hlt⟩)⟩

theorem fLe_of_not_fLe (hx : floatValue x ≠ .nan) (hy : floatValue y ≠ .nan) (h : ¬ fLe y x = true) :
    fLe x y = true :=
  fLe_of_not_fLt hx hy fun hlt => h (fLt_fLe hlt)

theorem fLe_refl (hx : fFinite x = true) : fLe x x = true := by
  obtain ⟨a, hx⟩ := exists_position (ne_nan_of_fFinite hx)
  exact fLe_iff.mpr ⟨a, a, hx, hx, le_refl a⟩

theorem fLt_of_fLt_of_fLe (h : fLt x y = true) (h' : fLe y z = true) : fLt x z = true := by
  obtain ⟨a, b, hx, hy, hab⟩ := fLt_iff.mp h
  obtain ⟨b', c, hy', hz, hbc⟩ := fLe_iff.mp h'
  rw [hy, Option.some_inj] at hy'
  exact fLt_iff.mpr ⟨a, c, hx, hz, by omega⟩

/-- A value above one that is above 0.0 is above 0.0, when it is finite. -/
theorem finiteAbove_zero_of_fLe (hx : finiteAbove 0#32 x = true) (h : fLe x y = true) (hy : fFinite y = true) :
    finiteAbove 0#32 y = true :=
  finiteAbove_iff.mpr ⟨hy, fLt_of_fLt_of_fLe (finiteAbove_iff.mp hx).2 h⟩

/-! Products of finite values above 0.0. -/

/-- The finite values above 0.0. -/
theorem finiteAbove_zero_iff : finiteAbove 0#32 x = true ↔ ∃ m, 0 < m ∧ floatValue x = .fin false m := by
  rw [finiteAbove_iff, fFinite_iff]
  constructor
  · rintro ⟨⟨neg, mag, hx⟩, hpos⟩
    rw [fLt_fin (s := false) (m := 0) rfl hx] at hpos
    cases neg <;> simp [signedUnits] at hpos
    · exact ⟨mag, hpos, hx⟩
    · omega
  · rintro ⟨m, hm, hx⟩
    refine ⟨⟨false, m, hx⟩, ?_⟩
    rw [fLt_fin (s := false) (m := 0) rfl hx]
    simpa [signedUnits] using hm

theorem position_roundWord (num den : Nat) :
    position (floatValue (roundWord false num den)) =
      if roundMagnitude num den < 0x7F800000 then some ((magnitude (roundMagnitude num den) : Nat) : Int)
      else some ((beyondFinite : Nat) : Int) := by
  rw [floatValue_roundWord]
  split <;> rfl

/-- Rounding keeps order. -/
theorem fLe_roundWord {a u b w : Nat} (hu : 0 < u) (hw : 0 < w) (h : a * w ≤ b * u) :
    fLe (roundWord false a u) (roundWord false b w) = true := by
  have hround := roundMagnitude_mono hu hw h
  have hmag := magnitude_le hround
  rw [fLe, position_roundWord, position_roundWord]
  by_cases hb : roundMagnitude b w < 0x7F800000
  · simpa [hb, Nat.lt_of_le_of_lt hround hb] using hmag
  · by_cases ha : roundMagnitude a u < 0x7F800000
    · simpa [hb, ha] using Nat.le_of_lt (magnitude_lt_beyondFinite ha)
    · simp [hb, ha]

/-- Multiplication keeps order above 0.0. -/
theorem fMul_le_fMul {x' y' : Word} (hx : finiteAbove 0#32 x = true) (hy : finiteAbove 0#32 y = true)
    (hx' : finiteAbove 0#32 x' = true) (hy' : finiteAbove 0#32 y' = true) (h : fLe x x' = true)
    (h' : fLe y y' = true) : fLe (fMul x y) (fMul x' y') = true := by
  obtain ⟨m, hm, hx⟩ := finiteAbove_zero_iff.mp hx
  obtain ⟨n, hn, hy⟩ := finiteAbove_zero_iff.mp hy
  obtain ⟨m', hm', hx'⟩ := finiteAbove_zero_iff.mp hx'
  obtain ⟨n', hn', hy'⟩ := finiteAbove_zero_iff.mp hy'
  rw [fLe_fin hx hx'] at h
  rw [fLe_fin hy hy'] at h'
  rw [fMul_fin hx hy, fMul_fin hx' hy']
  have hmm : m ≤ m' := by simpa [signedUnits] using h
  have hnn : n ≤ n' := by simpa [signedUnits] using h'
  exact fLe_roundWord (Nat.two_pow_pos _) (Nat.two_pow_pos _)
    (Nat.mul_le_mul_right _ (Nat.mul_le_mul hmm hnn))

theorem floatValue_one : floatValue 0x3F800000#32 = .fin false (2 ^ 149) := by decide +kernel

theorem finiteAbove_zero_one : finiteAbove 0#32 0x3F800000#32 = true := by decide +kernel

/-- `x * 1.0` is `x`. -/
theorem fMul_one (hx : finiteAbove 0#32 x = true) : fMul x 0x3F800000#32 = x := by
  obtain ⟨m, -, hx⟩ := finiteAbove_zero_iff.mp hx
  obtain ⟨bits, hbits, rfl, rfl⟩ := floatValue_fin hx
  rw [fMul_fin hx floatValue_one, roundWord, roundMagnitude_exact (Nat.two_pow_pos _) hbits]
  rfl

/-- A multiplier of at least 1.0 does not lower a level. -/
theorem fLe_fMul_of_one_le (hx : finiteAbove 0#32 x = true) (hy : finiteAbove 0#32 y = true)
    (h : fLe 0x3F800000#32 y = true) : fLe x (fMul x y) = true := by
  have hmul := fMul_le_fMul hx finiteAbove_zero_one hx hy (fLe_refl (finiteAbove_iff.mp hx).1) h
  rwa [fMul_one hx] at hmul

/-- A multiplier of at most 1.0 does not raise a level. -/
theorem fMul_le_of_le_one (hx : finiteAbove 0#32 x = true) (hy : finiteAbove 0#32 y = true)
    (h : fLe y 0x3F800000#32 = true) : fLe (fMul x y) x = true := by
  have hmul := fMul_le_fMul hx hy hx finiteAbove_zero_one (fLe_refl (finiteAbove_iff.mp hx).1) h
  rwa [fMul_one hx] at hmul

theorem fMul_ne_nan (hx : finiteAbove 0#32 x = true) (hy : finiteAbove 0#32 y = true) :
    floatValue (fMul x y) ≠ .nan :=
  (ne_nan_of_fLe (fMul_le_fMul hx hy hx hy (fLe_refl (finiteAbove_iff.mp hx).1)
    (fLe_refl (finiteAbove_iff.mp hy).1))).1

/-! The direction of a ramp (42_envelope.md R63): a rising one has a multiplier of at least 1.0, a falling one of at
most 1.0. The sign passes from the difference of the logarithms to the quotient, and from there to the side of 1.0. -/

/-- Unless it is a NaN, the value has the sign of `k`, or it is a zero. -/
def hasSignOf (k : Int) (v : FloatValue) : Prop :=
  ∀ a, position v = some a → (0 ≤ k → 0 ≤ a) ∧ (k ≤ 0 → a ≤ 0)

theorem hasSignOf_nan (k : Int) : hasSignOf k .nan := fun _ ha => nomatch ha

theorem hasSignOf_zero (k : Int) (neg : Bool) : hasSignOf k (.fin neg 0) := by
  intro a ha
  rw [position, signedUnits_zero, Option.some_inj] at ha
  omega

theorem hasSignOf_inf {k : Int} {neg : Bool} (hk : if neg then k < 0 else 0 < k) : hasSignOf k (.inf neg) := by
  intro a ha
  have hpos : 0 < (beyondFinite : Int) := by decide
  rw [position, Option.some_inj] at ha
  cases neg <;> simp [signedUnits] at ha hk <;> omega

/-- Rounding keeps the sign; a zero rounds to a zero. -/
theorem hasSignOf_roundWord (neg : Bool) (num : Nat) {den : Nat} (hd : 0 < den) :
    hasSignOf (signedUnits neg num) (floatValue (roundWord neg num den)) := by
  rcases Nat.eq_zero_or_pos num with rfl | hnum
  · rw [roundWord, roundMagnitude_zero hd, floatValue_zeroWord]
    exact hasSignOf_zero _ neg
  · intro a ha
    rw [floatValue_roundWord] at ha
    cases neg <;> split at ha <;> simp [position, signedUnits] at ha ⊢ <;> omega

theorem hasSignOf_addFinite (s t : Bool) (m n : Nat) :
    hasSignOf (signedUnits s m + signedUnits t n) (floatValue (addFinite s m t n)) := by
  unfold addFinite
  generalize signedUnits s m + signedUnits t n = sum
  simp only
  split
  next =>
    rw [floatValue_zeroWord]
    exact hasSignOf_zero sum (s && t)
  next =>
    have hround := hasSignOf_roundWord (decide (sum < 0)) sum.natAbs Nat.one_pos
    rwa [signedUnits_decide_natAbs] at hround

/-- A finite value lies strictly between the infinities. -/
theorem signedUnits_lt_beyondFinite {neg : Bool} {m : Nat} (h : floatValue x = .fin neg m) :
    -(beyondFinite : Int) < signedUnits neg m ∧ signedUnits neg m < beyondFinite := by
  obtain ⟨bits, hbits, -, rfl⟩ := floatValue_fin h
  have hlt := magnitude_lt_beyondFinite hbits
  cases neg <;> simp [signedUnits] <;> omega

/-- A difference has the sign of the distance. -/
theorem hasSignOf_fSub {a b : Int} (hx : position (floatValue x) = some a) (hy : position (floatValue y) = some b) :
    hasSignOf (a - b) (floatValue (fSub x y)) := by
  have hpos : 0 < (beyondFinite : Int) := by decide
  cases hvx : floatValue x with
  | nan => exact absurd hvx (ne_nan_of_position hx)
  | inf s =>
    rw [hvx, position, Option.some_inj] at hx
    cases hvy : floatValue y with
    | nan => exact absurd hvy (ne_nan_of_position hy)
    | inf t =>
      rw [hvy, position, Option.some_inj] at hy
      obtain ⟨-, hsub, -, -⟩ := arithmetic_of_inf_inf hvx hvy
      rw [hsub]
      split
      next => exact hasSignOf_nan _
      next hst =>
        refine hasSignOf_inf ?_
        cases s <;> cases t <;> simp [signedUnits] at hst hx hy ⊢ <;> omega
    | fin t n =>
      rw [hvy, position, Option.some_inj] at hy
      have hbound := signedUnits_lt_beyondFinite hvy
      obtain ⟨-, hsub, -, -⟩ := arithmetic_of_inf_fin hvx hvy
      rw [hsub]
      refine hasSignOf_inf ?_
      cases s <;> simp [signedUnits] at hx ⊢ <;> omega
  | fin s m =>
    rw [hvx, position, Option.some_inj] at hx
    cases hvy : floatValue y with
    | nan => exact absurd hvy (ne_nan_of_position hy)
    | inf t =>
      rw [hvy, position, Option.some_inj] at hy
      have hbound := signedUnits_lt_beyondFinite hvx
      obtain ⟨-, hsub, -, -⟩ := arithmetic_of_fin_inf hvx hvy
      rw [hsub]
      refine hasSignOf_inf ?_
      cases t <;> simp [signedUnits] at hy ⊢ <;> omega
    | fin t n =>
      rw [hvy, position, Option.some_inj] at hy
      rw [fSub_fin hvx hvy, ← hx, ← hy, sub_eq_add_neg, ← signedUnits_not]
      exact hasSignOf_addFinite s (!t) m n

theorem fLt_zero_iff :
    fLt 0#32 x = true ↔ floatValue x = .inf false ∨ ∃ m, 0 < m ∧ floatValue x = .fin false m := by
  have hzero : position (floatValue 0#32) = some 0 := rfl
  rw [fLt, hzero]
  cases floatValue x with
  | nan => simp [position]
  | inf neg => cases neg <;> simp [position, signedUnits, beyondFinite]
  | fin neg mag => cases neg <;> simp [position, signedUnits]

/-- A divisor above 0.0 keeps the sign. -/
theorem hasSignOf_fDiv {k : Int} (hx : hasSignOf k (floatValue x)) (hy : fLt 0#32 y = true) :
    hasSignOf k (floatValue (fDiv x y)) := by
  cases hvx : floatValue x with
  | nan =>
    obtain ⟨-, -, -, hdiv⟩ := arithmetic_of_nan (.inl hvx)
    rw [hdiv]
    exact hasSignOf_nan k
  | inf s =>
    rcases fLt_zero_iff.mp hy with hvy | ⟨n, hn, hvy⟩
    · obtain ⟨-, -, -, hdiv⟩ := arithmetic_of_inf_inf hvx hvy
      rw [hdiv]
      exact hasSignOf_nan k
    · obtain ⟨-, -, -, hdiv⟩ := arithmetic_of_inf_fin hvx hvy
      rw [hdiv, Bool.xor_false, ← hvx]
      exact hx
  | fin s m =>
    rcases fLt_zero_iff.mp hy with hvy | ⟨n, hn, hvy⟩
    · obtain ⟨-, -, -, hdiv⟩ := arithmetic_of_fin_inf hvx hvy
      rw [hdiv]
      exact hasSignOf_zero k _
    · rw [fDiv_fin hvx hvy hn.ne', Bool.xor_false]
      intro a ha
      have hsign := hasSignOf_roundWord s (m * 2 ^ 149) hn a ha
      have hk := hx (signedUnits s m) (by rw [hvx, position])
      cases s <;> simp only [signedUnits, if_true, Bool.false_eq_true, if_false] at hsign hk <;> omega

theorem one_eq_roundWord : 0x3F800000#32 = roundWord false (2 ^ 149) 1 := by decide +kernel

/-- One plus a finite value that is not negative rounds to at least 1.0. -/
theorem one_le_addFinite {neg : Bool} {mag : Nat} (h : 0 ≤ signedUnits neg mag) :
    fLe 0x3F800000#32 (addFinite false (2 ^ 149) neg mag) = true := by
  have hone : signedUnits false (2 ^ 149) = 2 ^ 149 := rfl
  simp only [addFinite, hone]
  rw [if_neg (by omega), decide_eq_false (by omega), one_eq_roundWord]
  exact fLe_roundWord Nat.one_pos Nat.one_pos (by omega)

/-- One plus a finite value that is not positive rounds to at most 1.0. -/
theorem addFinite_le_one {neg : Bool} {mag : Nat} (h : signedUnits neg mag ≤ 0)
    (hfin : fFinite (addFinite false (2 ^ 149) neg mag) = true) :
    fLe (addFinite false (2 ^ 149) neg mag) 0x3F800000#32 = true := by
  have hone : signedUnits false (2 ^ 149) = 2 ^ 149 := rfl
  rcases le_or_gt (signedUnits false (2 ^ 149) + signedUnits neg mag) 0 with hsum | hsum
  · obtain ⟨a, ha⟩ := exists_position (ne_nan_of_fFinite hfin)
    have hle := (hasSignOf_addFinite false neg (2 ^ 149) mag a ha).2 hsum
    exact fLe_iff.mpr ⟨a, 2 ^ 149, ha, by rw [floatValue_one]; rfl, by omega⟩
  · simp only [addFinite]
    rw [if_neg (by omega), decide_eq_false (by omega), one_eq_roundWord]
    exact fLe_roundWord Nat.one_pos Nat.one_pos (by omega)

/-- A finite `1.0 + q` lies on the side of 1.0 that the sign of `q` says. -/
theorem one_add_side {k : Int} (hx : hasSignOf k (floatValue x)) (hfin : fFinite (fAdd 0x3F800000#32 x) = true) :
    (0 ≤ k → fLe 0x3F800000#32 (fAdd 0x3F800000#32 x) = true) ∧
      (k ≤ 0 → fLe (fAdd 0x3F800000#32 x) 0x3F800000#32 = true) := by
  cases hvx : floatValue x with
  | nan =>
    obtain ⟨hadd, -, -, -⟩ := arithmetic_of_nan (x := 0x3F800000#32) (.inr hvx)
    exact absurd hadd (ne_nan_of_fFinite hfin)
  | inf neg =>
    obtain ⟨s, m, hsum⟩ := fFinite_iff.mp hfin
    obtain ⟨hadd, -, -, -⟩ := arithmetic_of_fin_inf floatValue_one hvx
    rw [hadd] at hsum
    cases hsum
  | fin neg mag =>
    have hsign := hx (signedUnits neg mag) (by rw [hvx, position])
    rw [fAdd_fin floatValue_one hvx] at hfin ⊢
    exact ⟨fun hk => one_le_addFinite (hsign.1 hk), fun hk => addFinite_le_one (hsign.2 hk) hfin⟩

end

section
variable {n : Numerics} {p : Params} {start stop time m : Word}

/-- An answered multiplier is finite and above 0.0, and it is the formula's. -/
theorem rampMult_eq_ok (h : rampMult n p start stop time = .ok m) :
    finiteAbove 0#32 m = true ∧
      m = fAdd 0x3F800000#32 (fDiv (fSub (n.ln stop) (n.ln start)) (fMul time (rateWord p))) := by
  unfold rampMult at h
  simp only at h
  split at h
  next hok =>
    cases h
    exact ⟨hok, rfl⟩
  next => cases h

theorem rateWord_eq (p : Params) : rateWord p = roundWord false (p.sampleRate * 2 ^ 149) 1 := by
  rw [rateWord, fOfInt, decide_eq_false (by omega), Int.natAbs_natCast]

/-- The greatest sample rate as a binary32. -/
theorem maxRate_eq_roundWord : 0x4B800000#32 = roundWord false (16777216 * 2 ^ 149) 1 := by decide +kernel

/-- The sample rate is a finite value of at least 1.0. -/
theorem one_le_rateWord (hp : p.rateInRange) :
    finiteAbove 0#32 (rateWord p) = true ∧ fLe 0x3F800000#32 (rateWord p) = true := by
  obtain ⟨hlow, hhigh⟩ := hp
  have hone : fLe 0x3F800000#32 (rateWord p) = true := by
    rw [one_eq_roundWord, rateWord_eq]
    exact fLe_roundWord Nat.one_pos Nat.one_pos (by omega)
  have hmax : fLe (rateWord p) 0x4B800000#32 = true := by
    rw [maxRate_eq_roundWord, rateWord_eq]
    exact fLe_roundWord Nat.one_pos Nat.one_pos (by omega)
  exact ⟨finiteAbove_zero_of_fLe finiteAbove_zero_one hone
    (fFinite_of_between (by decide) (by decide) hone hmax), hone⟩

/-- The divisor of `RampMult` is above 0.0. -/
theorem rampDivisor_pos (hp : p.rateInRange) (htime : finiteAbove 0#32 time = true) :
    fLt 0#32 (fMul time (rateWord p)) = true := by
  obtain ⟨hpos, hone⟩ := one_le_rateWord hp
  exact fLt_of_fLt_of_fLe (finiteAbove_iff.mp htime).2 (fLe_fMul_of_one_le htime hpos hone)

/-- A multiplier lies on the side of 1.0 that the distance of the logarithms says. -/
theorem rampMult_side {a b : Int} (hp : p.rateInRange) (htime : finiteAbove 0#32 time = true)
    (ha : position (floatValue (n.ln start)) = some a) (hb : position (floatValue (n.ln stop)) = some b)
    (h : rampMult n p start stop time = .ok m) :
    (a ≤ b → fLe 0x3F800000#32 m = true) ∧ (b ≤ a → fLe m 0x3F800000#32 = true) := by
  obtain ⟨hpos, rfl⟩ := rampMult_eq_ok h
  have hsign := hasSignOf_fDiv (hasSignOf_fSub hb ha) (rampDivisor_pos hp htime)
  obtain ⟨hrise, hfall⟩ := one_add_side hsign (finiteAbove_iff.mp hpos).1
  exact ⟨fun hab => hrise (by omega), fun hba => hfall (by omega)⟩

/-- The multiplier of a rising ramp. -/
theorem one_le_rampMult (hln : lnKeepsOrder n) (hp : p.rateInRange) (htime : finiteAbove 0#32 time = true)
    (hstart : fLt 0#32 start = true) (hle : fLe start stop = true) (h : rampMult n p start stop time = .ok m) :
    fLe 0x3F800000#32 m = true := by
  obtain ⟨a, b, ha, hb, hab⟩ := fLe_iff.mp (hln start stop hstart (fLt_of_fLt_of_fLe hstart hle) hle)
  exact (rampMult_side hp htime ha hb h).1 hab

/-- The multiplier of a falling ramp. -/
theorem rampMult_le_one (hln : lnKeepsOrder n) (hp : p.rateInRange) (htime : finiteAbove 0#32 time = true)
    (hstop : fLt 0#32 stop = true) (hle : fLe stop start = true) (h : rampMult n p start stop time = .ok m) :
    fLe m 0x3F800000#32 = true := by
  obtain ⟨b, a, hb, ha, hba⟩ := fLe_iff.mp (hln stop start hstop (fLt_of_fLt_of_fLe hstop hle) hle)
  exact (rampMult_side hp htime ha hb h).2 hba

end

/-! The envelope procedures. -/

theorem finiteAbove_zero_envFloor : finiteAbove 0#32 Config.envFloor = true := by decide +kernel

theorem envFloor_le_self : fLe Config.envFloor Config.envFloor = true := by decide +kernel

/-- A level is above FLOOR, hence above 0.0. -/
theorem finiteAbove_zero_of_envFloor {x : Word} (h : finiteAbove Config.envFloor x = true) :
    finiteAbove 0#32 x = true :=
  finiteAbove_zero_of_fLe finiteAbove_zero_envFloor (fLt_fLe (finiteAbove_iff.mp h).2) (finiteAbove_iff.mp h).1

section
variable {n : Numerics} {p : Params} {g : Settings} {v v' : Voice}

theorem levelInRange_of_envelopeKept (h : envelopeKept g v) : levelInRange g v := by
  unfold envelopeKept at h
  intro hoff
  split at h
  next henv => exact absurd henv hoff
  next => exact h.1 hoff
  next => exact h.1 hoff
  next => exact h hoff
  next => exact h.1 hoff

/-- The level of a sounding voice is finite and above 0.0. -/
theorem finiteAbove_zero_level (hpeak : finiteAbove Config.envFloor g.peak = true)
    (hlevel : fLe Config.envFloor v.level = true ∧ fLe v.level g.peak = true) :
    finiteAbove 0#32 v.level = true :=
  finiteAbove_zero_of_fLe finiteAbove_zero_envFloor hlevel.1
    (fFinite_of_between (by decide) (finiteAbove_iff.mp hpeak).1 hlevel.1 hlevel.2)

/-- `EnvKeyOn` starts at FLOOR a ramp that rises to PEAK (42_envelope.md R64). -/
theorem envKeyOn_kept (hln : lnKeepsOrder n) (hlegal : envelopeLegal p g) (hv : envelopeKept g v)
    (h : envKeyOn n p g v = .ok v') : envelopeKept g v' := by
  obtain ⟨hp, hpeak, -, hattack, -, -⟩ := hlegal
  have hfloor : fLe Config.envFloor g.peak = true := fLt_fLe (finiteAbove_iff.mp hpeak).2
  unfold envKeyOn at h
  split at h
  · split at h
    · cases h
    · split at h
      · cases h
      next m hm =>
        cases h
        have hrise := one_le_rampMult hln hp hattack (finiteAbove_iff.mp finiteAbove_zero_envFloor).2 hfloor hm
        exact ⟨fun _ => ⟨envFloor_le_self, hfloor⟩, hrise, (finiteAbove_iff.mp (rampMult_eq_ok hm).1).1⟩
  · cases h
    exact hv

/-- `EnvKeyOff` keeps the level and starts a ramp that falls to FLOOR (42_envelope.md R65). -/
theorem envKeyOff_kept (hln : lnKeepsOrder n) (hlegal : envelopeLegal p g) (hv : envelopeKept g v)
    (h : envKeyOff n p g v = .ok v') : envelopeKept g v' := by
  obtain ⟨hp, -, hsustain, -, -, hrelease⟩ := hlegal
  unfold envKeyOff at h
  split at h
  next hsounds =>
    split at h
    · cases h
    next m hm =>
      cases h
      have hoff : v.env ≠ .off := fun henv => by simp [henv] at hsounds
      have hlevel := levelInRange_of_envelopeKept hv hoff
      have hfall := rampMult_le_one hln hp hrelease (finiteAbove_iff.mp finiteAbove_zero_envFloor).2
        (fLt_fLe (finiteAbove_iff.mp hsustain).2) hm
      exact ⟨fun _ => hlevel, (finiteAbove_iff.mp (rampMult_eq_ok hm).1).2, hfall⟩
  · cases h
    exact hv

/-- The end of the attack clamps the level to PEAK and starts a ramp that falls to SUSTAIN; its check keeps the product
of SUSTAIN and the multiplier from falling below FLOOR (42_envelope.md R66). -/
theorem attackEnd_kept (hln : lnKeepsOrder n) (hlegal : envelopeLegal p g) (h : attackEnd n p g v = .ok v') :
    envelopeKept g v' := by
  obtain ⟨hp, hpeak, hsustain, -, hdecay, -⟩ := hlegal
  have hspos := finiteAbove_zero_of_envFloor hsustain
  obtain ⟨hpeakfin, hpeakfloor⟩ := finiteAbove_iff.mp hpeak
  unfold attackEnd at h
  split at h
  · cases h
  next horder =>
    split at h
    · cases h
    next m hm =>
      split at h
      · cases h
      next hcheck =>
        cases h
        have hsp : fLe g.sustain g.peak = true :=
          fLe_of_not_fLt (ne_nan_of_fFinite (finiteAbove_iff.mp hspos).1) (ne_nan_of_fFinite hpeakfin) horder
        have hmpos := (rampMult_eq_ok hm).1
        have hfall := rampMult_le_one hln hp hdecay (finiteAbove_iff.mp hspos).2 hsp hm
        have hproduct := fLe_of_not_fLt (ne_nan_of_fFinite (x := Config.envFloor) (by decide))
          (fMul_ne_nan hspos hmpos) hcheck
        exact ⟨fun _ => ⟨fLt_fLe hpeakfloor, fLe_refl hpeakfin⟩, hsp, (finiteAbove_iff.mp hmpos).2, hfall,
          hproduct, hsp⟩

/-- A multiplier above 0.0 and at most 1.0 is finite. -/
theorem finiteAbove_zero_of_le_one {m : Word} (hpos : fLt 0#32 m = true) (hle : fLe m 0x3F800000#32 = true) :
    finiteAbove 0#32 m = true :=
  finiteAbove_iff.mpr ⟨fFinite_of_between (by decide) (by decide) (fLt_fLe hpos) hle, hpos⟩

/-- A rising ramp stays at least at FLOOR, and at PEAK the attack ends. -/
theorem envAdvance_kept_of_attack (hln : lnKeepsOrder n) (hlegal : envelopeLegal p g) (hv : envelopeKept g v)
    (henv : v.env = .attack) (h : envAdvance n p g v = .ok v') : envelopeKept g v' := by
  have ⟨_, hpeak, _⟩ := hlegal
  simp only [envelopeKept, henv] at hv
  obtain ⟨hlevel, hrise, hfin⟩ := hv
  obtain ⟨hlo, hhi⟩ := hlevel (by simp [henv])
  have hpos := finiteAbove_zero_level hpeak ⟨hlo, hhi⟩
  have hmpos := finiteAbove_zero_of_fLe finiteAbove_zero_one hrise hfin
  simp only [envAdvance, henv] at h
  split at h
  · exact attackEnd_kept hln hlegal h
  next hbelow =>
    cases h
    exact ⟨fun _ => ⟨fLe_trans hlo (fLe_fMul_of_one_le hpos hmpos hrise),
      fLe_of_not_fLe (fMul_ne_nan hpos hmpos) (ne_nan_of_fFinite (finiteAbove_iff.mp hpeak).1) hbelow⟩, hrise, hfin⟩

/-- The decay's last product is at least that of SUSTAIN, which the end of the attack checked. -/
theorem envAdvance_kept_of_decay (hlegal : envelopeLegal p g) (hv : envelopeKept g v) (henv : v.env = .decay)
    (h : envAdvance n p g v = .ok v') : envelopeKept g v' := by
  obtain ⟨-, hpeak, hsustain, -, -, -⟩ := hlegal
  have hspos := finiteAbove_zero_of_envFloor hsustain
  simp only [envelopeKept, henv] at hv
  obtain ⟨hlevel, habove, hm0, hm1, hproduct, hsp⟩ := hv
  obtain ⟨hlo, hhi⟩ := hlevel (by simp [henv])
  have hpos := finiteAbove_zero_level hpeak ⟨hlo, hhi⟩
  have hmpos := finiteAbove_zero_of_le_one hm0 hm1
  simp only [envAdvance, henv] at h
  split at h
  next hends =>
    cases h
    have hmono := fMul_le_fMul hspos hmpos hpos hmpos habove (fLe_refl (finiteAbove_iff.mp hmpos).1)
    exact fun _ => ⟨fLe_trans hproduct hmono, fLe_trans hends hsp⟩
  next hstays =>
    cases h
    have hge : fLe g.sustain (fMul v.level v.mult) = true :=
      fLe_of_not_fLe (ne_nan_of_fFinite (finiteAbove_iff.mp hspos).1) (fMul_ne_nan hpos hmpos) hstays
    exact ⟨fun _ => ⟨fLe_trans (fLt_fLe (finiteAbove_iff.mp hsustain).2) hge,
      fLe_trans (fMul_le_of_le_one hpos hmpos hm1) hhi⟩, hge, hm0, hm1, hproduct, hsp⟩

/-- A release that does not end stays above FLOOR. -/
theorem envAdvance_kept_of_release (hlegal : envelopeLegal p g) (hv : envelopeKept g v) (henv : v.env = .release)
    (h : envAdvance n p g v = .ok v') : envelopeKept g v' := by
  obtain ⟨-, hpeak, -⟩ := hlegal
  simp only [envelopeKept, henv] at hv
  obtain ⟨hlevel, hm0, hm1⟩ := hv
  obtain ⟨hlo, hhi⟩ := hlevel (by simp [henv])
  have hpos := finiteAbove_zero_level hpeak ⟨hlo, hhi⟩
  have hmpos := finiteAbove_zero_of_le_one hm0 hm1
  simp only [envAdvance, henv] at h
  split at h
  · cases h
    trivial
  next hstays =>
    cases h
    exact ⟨fun _ => ⟨fLe_of_not_fLe (ne_nan_of_fFinite (x := Config.envFloor) (by decide)) (fMul_ne_nan hpos hmpos)
      hstays, fLe_trans (fMul_le_of_le_one hpos hmpos hm1) hhi⟩, hm0, hm1⟩

/-- `EnvStep` keeps the invariant (42_envelope.md R66); off and sustain stay as they are. -/
theorem envAdvance_kept (hln : lnKeepsOrder n) (hlegal : envelopeLegal p g) (hv : envelopeKept g v)
    (h : envAdvance n p g v = .ok v') : envelopeKept g v' := by
  cases henv : v.env with
  | attack => exact envAdvance_kept_of_attack hln hlegal hv henv h
  | decay => exact envAdvance_kept_of_decay hlegal hv henv h
  | release => exact envAdvance_kept_of_release hlegal hv henv h
  | off | sustain =>
    simp only [envAdvance, henv, Except.ok.injEq] at h
    exact h ▸ hv

end

/-- Settles O52, one lemma for each procedure. -/
theorem envelopeLevelStaysInRange : Obligations.EnvelopeLevelStaysInRange := by
  intro n p g v v' hln hlegal hv h
  have hkept : envelopeKept g v' := by
    rcases h with h | h | h
    · exact envKeyOn_kept hln hlegal hv h
    · exact envKeyOff_kept hln hlegal hv h
    · exact envAdvance_kept hln hlegal hv h
  exact ⟨hkept, levelInRange_of_envelopeKept hkept⟩

end Sys2Proof.Machine
end

section
/-! The encoding family: decoding and encoding undo each other, the opcode table, the assembler's lines, and the operand
bits that select nothing. -/

namespace Sys2Proof.Machine

/-! Concatenations, taken apart and put together. -/

/-- Two fields of a word that stand side by side are one field. -/
theorem adjacent_fields {w : Nat} (x : BitVec w) (start low high : Nat) :
    x.extractLsb' (start + low) high ++ x.extractLsb' start low = x.extractLsb' start (high + low) :=
  BitVec.extractLsb'_append_extractLsb'_eq_extractLsb' rfl

/-- The high and the low part of a word make up the word. -/
theorem high_append_low (m n : Nat) (x : BitVec (m + n)) : x.extractLsb' n m ++ x.extractLsb' 0 n = x :=
  (BitVec.extractLsb'_append_extractLsb'_eq_extractLsb' (Nat.zero_add n).symm).trans BitVec.extractLsb'_eq_self

theorem append_eq_append_iff {m n : Nat} {a c : BitVec m} {b d : BitVec n} : a ++ b = c ++ d ↔ a = c ∧ b = d := by
  refine ⟨fun h => ⟨?_, ?_⟩, fun ⟨hhigh, hlow⟩ => by rw [hhigh, hlow]⟩
  · simpa only [BitVec.extractLsb'_append_eq_left] using congrArg (·.extractLsb' n m) h
  · simpa only [BitVec.extractLsb'_append_eq_right] using congrArg (·.extractLsb' 0 n) h

/-- A mask tests the parts of a word one by one. -/
theorem append_and_beq {m n : Nat} (x mx vx : BitVec m) (y my vy : BitVec n) :
    ((x ++ y) &&& (mx ++ my) == vx ++ vy) = ((x &&& mx == vx) && (y &&& my == vy)) := by
  rw [BitVec.and_append, Bool.eq_iff_iff, Bool.and_eq_true, beq_iff_eq, beq_iff_eq, beq_iff_eq, append_eq_append_iff]

theorem msb_append_low {n : Nat} (x : BitVec (1 + n)) : BitVec.ofBool x.msb ++ x.extractLsb' 0 n = x := by
  have hmsb : BitVec.ofBool x.msb = x.extractLsb' n 1 := by
    ext i hi
    obtain rfl : i = 0 := by omega
    simp [BitVec.msb_eq_getLsbD_last]
  rw [hmsb, high_append_low 1 n]

/-- A word whose highest bit is 0, from its other bits. -/
theorem zero_append_low {n : Nat} {x : BitVec (1 + n)} (h : x.msb = false) : 0#1 ++ x.extractLsb' 0 n = x := by
  have hx := msb_append_low x
  rwa [h] at hx

/-- A word whose highest bit is 1, from its other bits. -/
theorem one_append_low {n : Nat} {x : BitVec (1 + n)} (h : x.msb = true) : 1#1 ++ x.extractLsb' 0 n = x := by
  have hx := msb_append_low x
  rwa [h] at hx

@[simp] theorem msb_dataByte (b : BitVec 1) (d : BitVec 7) : (b ++ d : BitVec 8).msb = b.msb :=
  BitVec.msb_append

@[simp] theorem low_dataByte (b : BitVec 1) (d : BitVec 7) : (b ++ d : BitVec 8).extractLsb' 0 7 = d :=
  extractLsb'_low

/-- A status nibble whose bit 3 is 0. -/
@[simp] theorem msb_noStatus (op : BitVec 3) : (0#1 ++ op : BitVec 4).msb = false := BitVec.msb_append

@[simp] theorem low_noStatus (op : BitVec 3) : (0#1 ++ op : BitVec 4).extractLsb' 0 3 = op := extractLsb'_low

theorem append_byte {n : Nat} (x : BitVec n) (b : BitVec 1) (d : BitVec 7) :
    (x ++ b ++ d : BitVec (n + 8)) = x ++ (b ++ d) := BitVec.append_assoc

/-! The fields of a command (30_encoding.md R33) and of an operation word (R32). -/

section
variable (op ch : BitVec 4) (b1 b2 : BitVec 8)

@[simp] theorem opField_bytes : opField (op ++ ch ++ b1 ++ b2) = op :=
  extractLsb'_above (by decide) <| extractLsb'_above (by decide) <| extractLsb'_above (by decide)
    BitVec.extractLsb'_eq_self

@[simp] theorem chField_bytes : chField (op ++ ch ++ b1 ++ b2) = ch :=
  extractLsb'_above (by decide) <| extractLsb'_above (by decide) extractLsb'_low

@[simp] theorem data1Field_bytes : data1Field (op ++ ch ++ b1 ++ b2) = b1 :=
  extractLsb'_above (by decide) extractLsb'_low

@[simp] theorem data2Field_bytes : data2Field (op ++ ch ++ b1 ++ b2) = b2 := extractLsb'_low

end

/-- A command is its four fields. -/
theorem command_eq_fields (c : Command) : opField c ++ chField c ++ data1Field c ++ data2Field c = c := by
  have hstatus : opField c ++ chField c = c.extractLsb' 16 8 := adjacent_fields c 16 4 4
  have hfirst : c.extractLsb' 16 8 ++ data1Field c = c.extractLsb' 8 16 := adjacent_fields c 8 8 8
  rw [hstatus, hfirst]
  exact high_append_low 16 8 c

theorem commandField_encodeCommand (c : Command) : commandField (encodeCommand c) = c := extractLsb'_low

/-- A word with tag 00 whose must-be-0 bits are 0 is the word of its command. -/
theorem encodeCommand_commandField {w : OpWord} (hw : mustBeZeroViolated w = false) (htag : tagField w = 0b00#2) :
    encodeCommand (commandField w) = w := by
  have hzero : w.extractLsb' 24 17 = 0#17 := by simpa [mustBeZeroViolated, htag] using hw
  have hhigh : tagField w ++ w.extractLsb' 24 17 = w.extractLsb' 24 19 := adjacent_fields w 24 17 2
  rw [encodeCommand, ← htag, ← hzero, hhigh]
  exact high_append_low 19 24 w

/-- A word is its tag and its other 41 bits. -/
theorem tag_append_rest (w : OpWord) : tagField w ++ w.extractLsb' 0 41 = w := high_append_low 2 41 w

/-- A word is its `CFG` fields. -/
theorem config_eq_fields (w : OpWord) : tagField w ++ rwField w ++ addrField w ++ dataField w = w := by
  have hrw : tagField w ++ rwField w = w.extractLsb' 40 3 := adjacent_fields w 40 1 2
  have haddr : w.extractLsb' 40 3 ++ addrField w = w.extractLsb' 32 11 := adjacent_fields w 32 8 3
  rw [hrw, haddr]
  exact high_append_low 11 32 w

@[simp] theorem addrField_config (tag : BitVec 2) (rw : BitVec 1) (addr : BitVec 8) (data : Word) :
    addrField (tag ++ rw ++ addr ++ data) = addr := extractLsb'_above (by decide) extractLsb'_low

@[simp] theorem dataField_config (tag : BitVec 2) (rw : BitVec 1) (addr : BitVec 8) (data : Word) :
    dataField (tag ++ rw ++ addr ++ data) = data := extractLsb'_low

/-! A command row's word, byte by byte. The spelling of every `CMD` word is the assembler's `asmCommand`. -/

theorem encodeCommand_bytes (op ch : BitVec 4) (b1 b2 : BitVec 8) :
    encodeCommand (op ++ ch ++ b1 ++ b2) = asmCommand op ch b1 b2 :=
  calc encodeCommand (op ++ ch ++ b1 ++ b2)
    _ = 0#19 ++ (op ++ ch ++ b1) ++ b2 := BitVec.append_assoc'
    _ = 0#19 ++ (op ++ ch) ++ b1 ++ b2 := congrArg (· ++ b2) BitVec.append_assoc'
    _ = asmCommand op ch b1 b2 := congrArg (· ++ b1 ++ b2) BitVec.append_assoc'

theorem encode_illegalNoStatus (op : BitVec 3) (ch : BitVec 4) (d1 d2 : BitVec 8) :
    encode (.illegalNoStatus op ch d1 d2) = asmCommand (0#1 ++ op) ch d1 d2 := encodeCommand_bytes ..

theorem encode_illegalChannelPressure (ch : BitVec 4) (d1 d2 : BitVec 8) :
    encode (.illegalChannelPressure ch d1 d2) = asmCommand 0xD#4 ch d1 d2 := encodeCommand_bytes ..

theorem encode_illegalSystem (ch : BitVec 4) (d1 d2 : BitVec 8) :
    encode (.illegalSystem ch d1 d2) = asmCommand 0xF#4 ch d1 d2 := encodeCommand_bytes ..

/-- A command whose first data byte is written as bit 7 and the rest. -/
theorem encodeCommand_data1 (op ch : BitVec 4) (b : BitVec 1) (d1 : BitVec 7) (d2 : BitVec 8) :
    encodeCommand (op ++ ch ++ b ++ d1 ++ d2) = asmCommand op ch (b ++ d1) d2 :=
  calc encodeCommand (op ++ ch ++ b ++ d1 ++ d2)
    _ = encodeCommand (op ++ ch ++ (b ++ d1) ++ d2) :=
      congrArg (fun high : BitVec 16 => encodeCommand (high ++ d2)) (append_byte (op ++ ch) b d1)
    _ = asmCommand op ch (b ++ d1) d2 := encodeCommand_bytes ..

/-- A command whose first data byte is legal and whose second is written as bit 7 and the rest. -/
theorem encodeCommand_data2 (op ch : BitVec 4) (d1 : BitVec 7) (b : BitVec 1) (d2 : BitVec 7) :
    encodeCommand (op ++ ch ++ 0#1 ++ d1 ++ b ++ d2) = asmCommand op ch (0#1 ++ d1) (b ++ d2) :=
  (congrArg encodeCommand (append_byte (op ++ ch ++ 0#1 ++ d1) b d2)).trans (encodeCommand_data1 ..)

theorem encode_illegalData1 (op ch : BitVec 4) (d1 : BitVec 7) (d2 : BitVec 8) :
    encode (.illegalData1 op ch d1 d2) = asmCommand op ch (1#1 ++ d1) d2 := encodeCommand_data1 ..

theorem encode_programChange (ch : BitVec 4) (prog : BitVec 7) (d2 : BitVec 8) :
    encode (.programChange ch prog d2) = asmCommand 0xC#4 ch (0#1 ++ prog) d2 := encodeCommand_data1 ..

theorem encode_illegalData2 (op ch : BitVec 4) (d1 d2 : BitVec 7) :
    encode (.illegalData2 op ch d1 d2) = asmCommand op ch (0#1 ++ d1) (1#1 ++ d2) := encodeCommand_data2 ..

theorem encodeMessage_eq_asmCommand (op ch : BitVec 4) (d1 d2 : BitVec 7) :
    encodeMessage op ch d1 d2 = asmCommand op ch (0#1 ++ d1) (0#1 ++ d2) := encodeCommand_data2 ..

/-! The decoder, format by format (30_encoding.md R39). -/

theorem decode_encodeCommand (c : Command) : decode (encodeCommand c) = decodeCommand c := by
  obtain ⟨htag, hzero⟩ := Laws.encodeCommand_format c
  simp [decode, htag, hzero, commandField_encodeCommand]

/-- The decode order of 30_encoding.md R39 on the bytes of a command. -/
theorem decode_asmCommand (op ch : BitVec 4) (b1 b2 : BitVec 8) :
    decode (asmCommand op ch b1 b2) =
      if op.msb = false then .illegalNoStatus (op.extractLsb' 0 3) ch b1 b2
      else if op = 0xD#4 then .illegalChannelPressure ch b1 b2
      else if op = 0xF#4 then .illegalSystem ch b1 b2
      else if b1.msb = true then .illegalData1 op ch (b1.extractLsb' 0 7) b2
      else if op = 0xC#4 then .programChange ch (b1.extractLsb' 0 7) b2
      else if b2.msb = true then .illegalData2 op ch (b1.extractLsb' 0 7) (b2.extractLsb' 0 7)
      else decodeMessage op ch (b1.extractLsb' 0 7) (b2.extractLsb' 0 7) := by
  rw [← encodeCommand_bytes, decode_encodeCommand]
  simp only [decodeCommand, opField_bytes, chField_bytes, data1Field_bytes, data2Field_bytes]

theorem opWithData_iff {op : BitVec 4} :
    opWithData op = true ↔ op.msb = true ∧ op ≠ 0xD#4 ∧ op ≠ 0xF#4 := by
  simp [opWithData, and_assoc]

/-- A status nibble decided by two legal data bytes: the five messages of 30_encoding.md R34. -/
theorem message_op {op : BitVec 4} (hop : opWithData op = true) (hc : op ≠ 0xC#4) :
    op = 0x8#4 ∨ op = 0x9#4 ∨ op = 0xA#4 ∨ op = 0xB#4 ∨ op = 0xE#4 := by
  revert op
  decide

theorem decode_encodeMessage {op : BitVec 4} (hop : opWithData op = true) (hc : op ≠ 0xC#4) (ch : BitVec 4)
    (d1 d2 : BitVec 7) : decode (encodeMessage op ch d1 d2) = decodeMessage op ch d1 d2 := by
  obtain ⟨hmsb, hd, hf⟩ := opWithData_iff.mp hop
  simp [encodeMessage_eq_asmCommand, decode_asmCommand, hmsb, hd, hf, hc]

/-! Controllers (30_encoding.md R40). -/

theorem controllerHasRow_iff {cc : BitVec 7} :
    controllerHasRow cc = true ↔ cc = 7#7 ∨ cc = 10#7 ∨ cc = 1#7 ∨ cc = 64#7 ∨ cc = 91#7 ∨ cc = 92#7 ∨ cc = 93#7 ∨
      cc = 94#7 ∨ cc = 95#7 := by
  simp [controllerHasRow, Config.ccVolume, Config.ccPan, Config.defaultIgnoredCc, or_assoc]

/-- A controller number without a row of its own is none of the nine. -/
theorem controller_ne {cc : BitVec 7} (h : controllerHasRow cc = false) :
    cc ≠ 7#7 ∧ cc ≠ 10#7 ∧ cc ≠ 1#7 ∧ cc ≠ 64#7 ∧ cc ≠ 91#7 ∧ cc ≠ 92#7 ∧ cc ≠ 93#7 ∧ cc ≠ 94#7 ∧ cc ≠ 95#7 := by
  simpa only [not_or] using mt controllerHasRow_iff.mpr (Bool.eq_false_iff.mp h)

theorem decodeController_unhandled {cc : BitVec 7} (h : controllerHasRow cc = false) (ch : BitVec 4) (val : BitVec 7) :
    decodeController ch cc val = .ccUnhandled ch cc val := by
  obtain ⟨h7, h10, h1, h64, h91, h92, h93, h94, h95⟩ := controller_ne h
  simp only [decodeController, h7, h10, h1, h64, h91, h92, h93, h94, h95, if_false]

/-- A controller's reading is well formed and keeps the command. -/
theorem decodeController_exact (ch : BitVec 4) (cc val : BitVec 7) :
    (decodeController ch cc val).wellFormed = true ∧
      encode (decodeController ch cc val) = encodeMessage 0xB#4 ch cc val := by
  cases hrow : controllerHasRow cc with
  | true =>
    rcases controllerHasRow_iff.mp hrow with rfl | rfl | rfl | rfl | rfl | rfl | rfl | rfl | rfl <;> exact ⟨rfl, rfl⟩
  | false =>
    rw [decodeController_unhandled hrow]
    exact ⟨by simp [Instr.wellFormed, hrow], rfl⟩

/-! Decoding the word of an operation. -/

/-- Settles O1, row by row: the illegal rows and PROGRAM_CHANGE by the decode order on their bytes, every message by
`decodeMessage`, a configuration access by its fields; PULL and RESET are one word each. -/
theorem decodeAfterEncode : Obligations.DecodeAfterEncode := by
  intro i hi
  cases i with
  | illegalOpword w => exact if_pos hi
  | illegalNoStatus => simp [encode_illegalNoStatus, decode_asmCommand]
  | illegalChannelPressure => exact (congrArg decode (encode_illegalChannelPressure ..)).trans (decode_asmCommand ..)
  | illegalSystem => exact (congrArg decode (encode_illegalSystem ..)).trans (decode_asmCommand ..)
  | illegalData1 =>
    obtain ⟨hmsb, hd, hf⟩ := opWithData_iff.mp hi
    simp [encode_illegalData1, decode_asmCommand, hmsb, hd, hf]
  | programChange =>
    have hmsb : (0xC#4).msb = true := rfl
    simp [encode_programChange, decode_asmCommand, hmsb]
  | illegalData2 =>
    obtain ⟨hop, hc⟩ : opWithData _ = true ∧ _ ≠ 0xC#4 := by simpa [Instr.wellFormed] using hi
    obtain ⟨hmsb, hd, hf⟩ := opWithData_iff.mp hop
    simp [encode_illegalData2, decode_asmCommand, hmsb, hd, hf, hc]
  | noteOn ch note vel =>
    have hvel : vel ≠ 0#7 := by simpa [Instr.wellFormed] using hi
    exact (decode_encodeMessage rfl (by decide) ch note vel).trans (if_neg hvel)
  | ccUnhandled ch cc val =>
    have hrow : controllerHasRow cc = false := by simpa [Instr.wellFormed] using hi
    exact (decode_encodeMessage rfl (by decide) ch cc val).trans (decodeController_unhandled hrow ch val)
  | noteOnVel0 | ccVolume | ccPan | ccIgnored1 | ccIgnored64 | ccIgnored91 | ccIgnored92 | ccIgnored93 | ccIgnored94
  | ccIgnored95 | noteOff | polyPressure | pitchBend => exact decode_encodeMessage rfl (by decide) ..
  | cfgWr addr data =>
    obtain ⟨htag, hrw, hzero⟩ := Laws.FormatTag.cfgWr addr data rfl
    have haddr : addrField (encode (.cfgWr addr data)) = addr := addrField_config ..
    have hdata : dataField (encode (.cfgWr addr data)) = data := dataField_config ..
    simp [decode, htag, hrw, hzero, haddr, hdata]
  | cfgRd addr =>
    obtain ⟨htag, hrw, hzero⟩ := Laws.FormatTag.cfgRd addr rfl
    have haddr : addrField (encode (.cfgRd addr)) = addr := addrField_config ..
    simp [decode, htag, hrw, hzero, haddr]
  | pull | reset => decide

/-- A word that encodes a well-formed operation decodes to it. -/
theorem decode_of_encode {w : OpWord} {i : Instr} (hi : i.wellFormed = true) (hw : encode i = w) : decode w = i :=
  hw ▸ decodeAfterEncode i hi

/-! Encoding the reading of a word. -/

/-- A message's reading is well formed and keeps the command. -/
theorem decodeMessage_exact {op : BitVec 4} (hop : opWithData op = true) (hc : op ≠ 0xC#4) (ch : BitVec 4)
    (d1 d2 : BitVec 7) :
    (decodeMessage op ch d1 d2).wellFormed = true ∧ encode (decodeMessage op ch d1 d2) = encodeMessage op ch d1 d2 := by
  rcases message_op hop hc with rfl | rfl | rfl | rfl | rfl
  case inr.inl =>
    have hread : decodeMessage 0x9#4 ch d1 d2 = if d2 = 0#7 then .noteOnVel0 ch d1 else .noteOn ch d1 d2 := rfl
    rw [hread]
    split
    next hzero => exact ⟨rfl, hzero ▸ rfl⟩
    next hvel => exact ⟨by simpa [Instr.wellFormed] using hvel, rfl⟩
  case inr.inr.inr.inl => exact decodeController_exact ch d1 d2
  all_goals exact ⟨rfl, rfl⟩

theorem opWithData_of_not {op : BitVec 4} (hmsb : ¬op.msb = false) (hd : ¬op = 0xD#4) (hf : ¬op = 0xF#4) :
    opWithData op = true :=
  opWithData_iff.mpr ⟨Bool.eq_true_of_not_eq_false hmsb, hd, hf⟩

/-- A data byte whose bit 7 is 0 is 0 and its other bits. -/
theorem legal_dataByte {b : BitVec 8} (h : ¬b.msb = true) : 0#1 ++ b.extractLsb' 0 7 = b :=
  zero_append_low (n := 7) (Bool.eq_false_of_not_eq_true h)

/-- A command word's reading is well formed and keeps the command, along the decode order of 30_encoding.md R39. -/
theorem decode_asmCommand_exact (op ch : BitVec 4) (b1 b2 : BitVec 8) :
    (decode (asmCommand op ch b1 b2)).wellFormed = true ∧
      encode (decode (asmCommand op ch b1 b2)) = asmCommand op ch b1 b2 := by
  rw [decode_asmCommand]
  split_ifs with hmsb hd hf h1 hc h2
  · exact ⟨rfl, by rw [encode_illegalNoStatus, zero_append_low hmsb]⟩
  · exact ⟨rfl, by rw [encode_illegalChannelPressure, hd]⟩
  · exact ⟨rfl, by rw [encode_illegalSystem, hf]⟩
  · exact ⟨opWithData_of_not hmsb hd hf, by rw [encode_illegalData1, one_append_low h1]⟩
  · exact ⟨rfl, by rw [encode_programChange, legal_dataByte h1, hc]⟩
  · exact ⟨by simp [Instr.wellFormed, opWithData_of_not hmsb hd hf, hc],
      by rw [encode_illegalData2, legal_dataByte h1, one_append_low h2]⟩
  · obtain ⟨hwf, henc⟩ :=
      decodeMessage_exact (opWithData_of_not hmsb hd hf) hc ch (b1.extractLsb' 0 7) (b2.extractLsb' 0 7)
    exact ⟨hwf, by rw [henc, encodeMessage_eq_asmCommand, legal_dataByte h1, legal_dataByte h2]⟩

/-- A word of tag 01 or 11 whose must-be-0 bits are 0 is its tag and zeros. -/
theorem eq_tag_append_zero {w : OpWord} (hw : mustBeZeroViolated w = false)
    (htag : tagField w = 0b01#2 ∨ tagField w = 0b11#2) : w = tagField w ++ 0#41 := by
  have hrest : w.extractLsb' 0 41 = 0#41 := by
    rcases htag with htag | htag <;> simpa [mustBeZeroViolated, htag] using hw
  rw [← hrest, tag_append_rest]

/-- The operation words by formats (30_encoding.md R32): one with a must-be-0 bit set, or a command, or the word of a
PULL, a configuration access or a RESET. -/
theorem opWord_cases (w : OpWord) :
    mustBeZeroViolated w = true ∨ (∃ op ch b1 b2, w = asmCommand op ch b1 b2) ∨
      ∃ i : Instr, w = encode i ∧ (i = .pull ∨ (∃ addr data, i = .cfgWr addr data) ∨ (∃ addr, i = .cfgRd addr) ∨
        i = .reset) := by
  refine or_iff_not_imp_left.mpr fun hset => ?_
  have hw : mustBeZeroViolated w = false := Bool.eq_false_of_not_eq_true hset
  have htags : tagField w = 0b00#2 ∨ tagField w = 0b01#2 ∨ tagField w = 0b10#2 ∨ tagField w = 0b11#2 := by
    generalize tagField w = tag
    revert tag
    decide
  rcases htags with htag | htag | htag | htag
  · refine .inl ⟨opField (commandField w), chField (commandField w), data1Field (commandField w),
      data2Field (commandField w), ?_⟩
    rw [← encodeCommand_bytes, command_eq_fields, encodeCommand_commandField hw htag]
  · exact .inr ⟨.pull, (eq_tag_append_zero hw (.inl htag)).trans (by rw [htag]; rfl), .inl rfl⟩
  · have hfields := config_eq_fields w
    rcases BitVec.eq_zero_or_eq_one (rwField w) with hrw | hrw
    · have hdata : dataField w = 0#32 := by simpa [mustBeZeroViolated, htag, hrw] using hw
      rw [htag, hrw, hdata] at hfields
      exact .inr ⟨.cfgRd (addrField w), hfields.symm, .inr (.inr (.inl ⟨_, rfl⟩))⟩
    · rw [htag, hrw] at hfields
      exact .inr ⟨.cfgWr (addrField w) (dataField w), hfields.symm, .inr (.inl ⟨_, _, rfl⟩)⟩
  · exact .inr ⟨.reset, (eq_tag_append_zero hw (.inr htag)).trans (by rw [htag]; rfl), .inr (.inr (.inr rfl))⟩

/-- Settles O2, format by format; a word of the last four formats is the encoding of an operation. -/
theorem encodeAfterDecode : Obligations.EncodeAfterDecode := by
  intro w
  rcases opWord_cases w with hw | ⟨op, ch, b1, b2, rfl⟩ | ⟨i, rfl, hi⟩
  · have hread : decode w = .illegalOpword w := if_pos hw
    rw [hread]
    exact ⟨hw, rfl⟩
  · exact decode_asmCommand_exact op ch b1 b2
  · have hwf : i.wellFormed = true := by rcases hi with rfl | ⟨_, _, rfl⟩ | ⟨_, rfl⟩ | rfl <;> rfl
    rw [decodeAfterEncode i hwf]
    exact ⟨hwf, rfl⟩

/-! The opcode table (30_encoding.md R39), by formats. The mask of a command row tests the tag, the must-be-0 bits, and
what the row fixes of the status nibble and of the two data bytes. -/

/-- A command row of the opcode table, by the masks and the matches of its OP and its two data bytes. -/
def commandRow (row : Row) (opMask op : BitVec 4) (mask1 value1 mask2 value2 : BitVec 8) : RowPattern :=
  ⟨row, 0x7FFFF#19 ++ opMask ++ 0#4 ++ mask1 ++ mask2, asmCommand op 0#4 value1 value2⟩

@[simp] theorem commandRow_row (row : Row) (opMask op : BitVec 4) (mask1 value1 mask2 value2 : BitVec 8) :
    (commandRow row opMask op mask1 value1 mask2 value2).row = row := rfl

/-- The rows before the messages: 30_encoding.md R39 steps 2 to 5. -/
def headRows : List RowPattern :=
  [commandRow .illegalNoStatus 0x8 0x0 0x00 0x00 0x00 0x00,
    commandRow .illegalChannelPressure 0xF 0xD 0x00 0x00 0x00 0x00,
    commandRow .illegalSystem 0xF 0xF 0x00 0x00 0x00 0x00,
    commandRow .illegalData1 0x8 0x8 0x80 0x80 0x00 0x00,
    commandRow .programChange 0xF 0xC 0x80 0x00 0x00 0x00,
    commandRow .illegalData2 0x8 0x8 0x00 0x00 0x80 0x80]

/-- The row of a note-on with velocity 0. -/
def velocityZeroRow : RowPattern := commandRow .noteOnVel0 0xF 0x9 0x80 0x00 0xFF 0x00

@[simp] theorem velocityZeroRow_row : velocityZeroRow.row = .noteOnVel0 := rfl

/-- The row of one controller number. -/
def controllerRow (row : Row) (cc : BitVec 7) : RowPattern := commandRow row 0xF 0xB 0xFF (0#1 ++ cc) 0x80 0x00

@[simp] theorem controllerRow_row (row : Row) (cc : BitVec 7) : (controllerRow row cc).row = row := rfl

/-- A row that fixes its OP and asks two legal data bytes. -/
def messageRow (row : Row) (op : BitVec 4) : RowPattern := commandRow row 0xF op 0x80 0x00 0x80 0x00

@[simp] theorem messageRow_row (row : Row) (op : BitVec 4) : (messageRow row op).row = row := rfl

/-- The rows of the five messages: 30_encoding.md R39 steps 6 to 8. -/
def messageRows : List RowPattern :=
  [velocityZeroRow, controllerRow .ccVolume 7, controllerRow .ccPan 10, controllerRow (.ccIgnored 1) 1,
    controllerRow (.ccIgnored 64) 64, controllerRow (.ccIgnored 91) 91, controllerRow (.ccIgnored 92) 92,
    controllerRow (.ccIgnored 93) 93, controllerRow (.ccIgnored 94) 94, controllerRow (.ccIgnored 95) 95,
    messageRow .noteOff 0x8, messageRow .noteOn 0x9, messageRow .polyPressure 0xA, messageRow .ccUnhandled 0xB,
    messageRow .pitchBend 0xE]

/-- The row of PULL. -/
def pullRow : RowPattern := ⟨.pull, 0x7FFFFFFFFFF, 0x20000000000⟩

/-- The row of CFG_WR. -/
def cfgWrRow : RowPattern := ⟨.cfgWr, 3#2 ++ 1#1 ++ 0#8 ++ 0#32, 2#2 ++ 1#1 ++ 0#8 ++ 0#32⟩

@[simp] theorem cfgWrRow_row : cfgWrRow.row = .cfgWr := rfl

/-- The row of CFG_RD. -/
def cfgRdRow : RowPattern := ⟨.cfgRd, 3#2 ++ 1#1 ++ 0#8 ++ 0xFFFFFFFF#32, 2#2 ++ 0#1 ++ 0#8 ++ 0#32⟩

@[simp] theorem cfgRdRow_row : cfgRdRow.row = .cfgRd := rfl

/-- The row of RESET. -/
def resetRow : RowPattern := ⟨.reset, 0x7FFFFFFFFFF, 0x60000000000⟩

theorem opcodeRows_eq : opcodeRows = headRows ++ messageRows ++ [pullRow, cfgWrRow, cfgRdRow, resetRow] := by decide

/-- The same table, cut at the rows of the configuration accesses. -/
theorem opcodeRows_eq_config :
    opcodeRows = (headRows ++ messageRows ++ [pullRow]) ++ [cfgWrRow, cfgRdRow] ++ [resetRow] := by decide

/-- The row's mask matches the word. -/
def rowMatches (r : RowPattern) (w : OpWord) : Bool := w &&& r.mask == r.value

/-- The first row is found in a part of the table when no row before that part matches. -/
theorem firstRow_of_part {before part after : List RowPattern} {w : OpWord} {row : Row}
    (htable : opcodeRows = before ++ part ++ after) (hzero : mustBeZeroViolated w = false)
    (hbefore : ∀ r ∈ before, rowMatches r w = false)
    (hpart : (part.find? (rowMatches · w)).map (·.row) = some row) : firstRow w = some row := by
  obtain ⟨r, hr, hrow⟩ := Option.map_eq_some_iff.mp hpart
  have hnone : before.find? (rowMatches · w) = none := List.find?_eq_none.mpr (by simpa using hbefore)
  have hfirst : opcodeRows.find? (rowMatches · w) = some r := by
    simp [htable, List.find?_append, hnone, hr]
  have hunfold : firstRow w = (opcodeRows.find? (rowMatches · w)).map (·.row) := by
    rw [firstRow, hzero]
    rfl
  rw [hunfold, hfirst, Option.map_some, hrow]

@[simp] theorem commandRow_matches (row : Row) (opMask opValue op ch : BitVec 4)
    (mask1 value1 mask2 value2 b1 b2 : BitVec 8) :
    rowMatches (commandRow row opMask opValue mask1 value1 mask2 value2) (asmCommand op ch b1 b2) =
      (op &&& opMask == opValue && b1 &&& mask1 == value1 && b2 &&& mask2 == value2) := by
  simp only [rowMatches, commandRow, asmCommand]
  rw [append_and_beq, append_and_beq, append_and_beq, append_and_beq]
  simp

/-! The masks of a status nibble and of a data byte. -/

@[simp] theorem nibble_and_mask (op : BitVec 4) : op &&& 0xF#4 = op := BitVec.and_allOnes

@[simp] theorem nibble_and_bit3 (op : BitVec 4) : op &&& 0x8#4 = if op.msb then 0x8#4 else 0x0#4 := by
  revert op
  decide

@[simp] theorem byte_and_mask (b : BitVec 8) : b &&& 0xFF#8 = b := BitVec.and_allOnes

@[simp] theorem byte_and_bit7 (b : BitVec 8) : b &&& 0x80#8 = if b.msb then 0x80#8 else 0x00#8 := by
  revert b
  decide

@[simp] theorem dataByte_beq (d e : BitVec 7) : (0#1 ++ d == (0#1 ++ e : BitVec 8)) = (d == e) := by
  rw [Bool.eq_iff_iff, beq_iff_eq, beq_iff_eq]
  exact append_eq_append_iff.trans (and_iff_right rfl)

@[simp] theorem dataByte_beq_zero (d : BitVec 7) : (0#1 ++ d == 0x00#8) = (d == 0#7) := dataByte_beq d 0#7

/-! The rows that match a message. -/

@[simp] theorem messageRow_matches (row : Row) (opValue op ch : BitVec 4) (d1 d2 : BitVec 7) :
    rowMatches (messageRow row opValue) (encodeMessage op ch d1 d2) = (op == opValue) := by
  simp [encodeMessage_eq_asmCommand, messageRow]

@[simp] theorem controllerRow_matches (row : Row) (op ch : BitVec 4) (cc d1 d2 : BitVec 7) :
    rowMatches (controllerRow row cc) (encodeMessage op ch d1 d2) = (op == 0xB#4 && d1 == cc) := by
  simp [encodeMessage_eq_asmCommand, controllerRow]

@[simp] theorem velocityZeroRow_matches (op ch : BitVec 4) (d1 d2 : BitVec 7) :
    rowMatches velocityZeroRow (encodeMessage op ch d1 d2) = (op == 0x9#4 && d2 == 0#7) := by
  simp [encodeMessage_eq_asmCommand, velocityZeroRow]

/-- No row before the messages matches a message. -/
theorem headRows_message {op : BitVec 4} (hop : opWithData op = true) (hc : op ≠ 0xC#4) (ch : BitVec 4)
    (d1 d2 : BitVec 7) : ∀ r ∈ headRows, rowMatches r (encodeMessage op ch d1 d2) = false := by
  obtain ⟨hmsb, hd, hf⟩ := opWithData_iff.mp hop
  simp [encodeMessage_eq_asmCommand, headRows, hmsb, hd, hf, hc]

theorem firstRow_encodeMessage {op : BitVec 4} (hop : opWithData op = true) (hc : op ≠ 0xC#4) {ch : BitVec 4}
    {d1 d2 : BitVec 7} {row : Row}
    (h : (messageRows.find? (rowMatches · (encodeMessage op ch d1 d2))).map (·.row) = some row) :
    firstRow (encodeMessage op ch d1 d2) = some row :=
  firstRow_of_part opcodeRows_eq (Laws.encodeCommand_format _).2 (headRows_message hop hc ch d1 d2) h

/-- The table finds the row of a controller command, by its number. -/
theorem firstRow_controller (ch : BitVec 4) (cc val : BitVec 7) :
    firstRow (encodeMessage 0xB#4 ch cc val) = some (decodeController ch cc val).row := by
  apply firstRow_encodeMessage rfl (by decide)
  cases hrow : controllerHasRow cc with
  | true =>
    rcases controllerHasRow_iff.mp hrow with rfl | rfl | rfl | rfl | rfl | rfl | rfl | rfl | rfl <;>
      simp [messageRows, decodeController, Instr.row]
  | false =>
    obtain ⟨h7, h10, h1, h64, h91, h92, h93, h94, h95⟩ := controller_ne hrow
    simp [messageRows, decodeController_unhandled hrow, h7, h10, h1, h64, h91, h92, h93, h94, h95, Instr.row]

/-- The table finds the row of a message. -/
theorem firstRow_message {op : BitVec 4} (hop : opWithData op = true) (hc : op ≠ 0xC#4) (ch : BitVec 4)
    (d1 d2 : BitVec 7) : firstRow (encodeMessage op ch d1 d2) = some (decodeMessage op ch d1 d2).row := by
  rcases message_op hop hc with rfl | rfl | rfl | rfl | rfl
  case inr.inl =>
    apply firstRow_encodeMessage hop hc
    by_cases hzero : d2 = 0#7
    · simp [messageRows, decodeMessage, hzero, Instr.row]
    · simp [messageRows, decodeMessage, hzero, Instr.row]
  case inr.inr.inr.inl => exact firstRow_controller ch d1 d2
  all_goals
    apply firstRow_encodeMessage hop hc
    simp [messageRows, decodeMessage, Instr.row]

/-- The table finds the row of a command word, along the decode order. -/
theorem firstRow_asmCommand (op ch : BitVec 4) (b1 b2 : BitVec 8) :
    firstRow (asmCommand op ch b1 b2) = some (decode (asmCommand op ch b1 b2)).row := by
  have hzero : mustBeZeroViolated (asmCommand op ch b1 b2) = false := by
    rw [← encodeCommand_bytes]
    exact (Laws.encodeCommand_format _).2
  have hhead {row : Row}
      (h : (headRows.find? (rowMatches · (asmCommand op ch b1 b2))).map (·.row) = some row) :
      firstRow (asmCommand op ch b1 b2) = some row :=
    firstRow_of_part (before := []) (opcodeRows_eq.trans (List.append_assoc ..)) hzero (by simp) h
  have hD : (0xD#4).msb = true := rfl
  have hF : (0xF#4).msb = true := rfl
  have hC : (0xC#4).msb = true := rfl
  rw [decode_asmCommand]
  split_ifs with hmsb hd hf h1 hc h2
  · exact hhead (by simp [headRows, hmsb, Instr.row])
  · exact hhead (by simp [headRows, hd, hD, Instr.row])
  · exact hhead (by simp [headRows, hf, hF, Instr.row])
  · exact hhead (by simp [headRows, hmsb, hd, hf, h1, Instr.row])
  · exact hhead (by simp [headRows, hc, hC, h1, Instr.row])
  · exact hhead (by simp [headRows, hmsb, hd, hf, h1, hc, h2, Instr.row])
  · have hmessage := firstRow_message (opWithData_of_not hmsb hd hf) hc ch (b1.extractLsb' 0 7) (b2.extractLsb' 0 7)
    rwa [encodeMessage_eq_asmCommand, legal_dataByte h1, legal_dataByte h2] at hmessage

/-! The rows that match a configuration access. -/

/-- A row's mask tests the tag, so a row of another tag does not match. -/
theorem not_matches_of_tag {r : RowPattern} {w : OpWord} (hmask : tagField r.mask = 0b11#2)
    (htag : tagField w ≠ tagField r.value) : rowMatches r w = false := by
  refine beq_eq_false_iff_ne.mpr fun h => htag ?_
  have hfields : tagField w &&& tagField r.mask = tagField r.value := by
    rw [← h, tagField, tagField, tagField, BitVec.extractLsb'_and]
  rw [← hfields, hmask]
  exact BitVec.and_allOnes.symm

/-- A configuration access is no row of another tag, and its row among the two of tag 10 is its first. -/
theorem firstRow_config {w : OpWord} {row : Row} (hzero : mustBeZeroViolated w = false) (htag : tagField w = 0b10#2)
    (h : ([cfgWrRow, cfgRdRow].find? (rowMatches · w)).map (·.row) = some row) : firstRow w = some row := by
  have htags : ∀ r ∈ headRows ++ messageRows ++ [pullRow], tagField r.mask = 0b11#2 ∧ tagField r.value ≠ 0b10#2 := by
    decide
  refine firstRow_of_part opcodeRows_eq_config hzero (fun r hr => ?_) h
  obtain ⟨hmask, hvalue⟩ := htags r hr
  exact not_matches_of_tag hmask fun heq => hvalue (heq.symm.trans htag)

theorem cfgWrRow_matches (rw : BitVec 1) (addr : BitVec 8) (data : Word) :
    rowMatches cfgWrRow (2#2 ++ rw ++ addr ++ data) = (rw == 1#1) := by
  have hbit : rw &&& 1#1 = rw := BitVec.and_allOnes
  simp only [rowMatches, cfgWrRow]
  rw [append_and_beq, append_and_beq, append_and_beq, hbit]
  simp

theorem cfgRdRow_matches (rw : BitVec 1) (addr : BitVec 8) (data : Word) :
    rowMatches cfgRdRow (2#2 ++ rw ++ addr ++ data) = (rw == 0#1 && data == 0#32) := by
  have hbit : rw &&& 1#1 = rw := BitVec.and_allOnes
  have hdata : data &&& 0xFFFFFFFF#32 = data := BitVec.and_allOnes
  simp only [rowMatches, cfgRdRow]
  rw [append_and_beq, append_and_beq, append_and_beq, hbit, hdata]
  simp

/-- Settles O3, format by format. -/
theorem decodeFollowsTheOpcodeTable : Obligations.DecodeFollowsTheOpcodeTable := by
  intro w
  rcases opWord_cases w with hw | ⟨op, ch, b1, b2, rfl⟩ | ⟨i, rfl, hi⟩
  · have hread : decode w = .illegalOpword w := if_pos hw
    rw [hread]
    exact if_pos hw
  · exact firstRow_asmCommand op ch b1 b2
  · rcases hi with rfl | ⟨addr, data, rfl⟩ | ⟨addr, rfl⟩ | rfl
    · decide
    · obtain ⟨htag, -, hzero⟩ := Laws.FormatTag.cfgWr addr data rfl
      rw [decodeAfterEncode _ rfl]
      refine firstRow_config hzero htag ?_
      have hmatches : rowMatches cfgWrRow (encode (.cfgWr addr data)) = true := cfgWrRow_matches 1 addr data
      simp [hmatches, Instr.row]
    · obtain ⟨htag, -, hzero⟩ := Laws.FormatTag.cfgRd addr rfl
      rw [decodeAfterEncode _ rfl]
      refine firstRow_config hzero htag ?_
      have hwr : rowMatches cfgWrRow (encode (.cfgRd addr)) = false := cfgWrRow_matches 0 addr 0
      have hrd : rowMatches cfgRdRow (encode (.cfgRd addr)) = true := cfgRdRow_matches 0 addr 0
      simp [hwr, hrd, Instr.row]
    · decide

/-! The assembler's lines (30_encoding.md R43, R44). -/

/-- The assembler's message line, once its OP is one of the five. -/
theorem decode_asmMessage {op : BitVec 4} (hop : opWithData op = true) (hc : op ≠ 0xC#4) (ch : BitVec 4)
    (d1 d2 : BitVec 7) : decode (asmCommand op ch (0#1 ++ d1) (0#1 ++ d2)) = decodeMessage op ch d1 d2 :=
  encodeMessage_eq_asmCommand op ch d1 d2 ▸ decode_encodeMessage hop hc ch d1 d2

/-- Settles O5: a message line is read by `decodeMessage`, and every other line is the encoding of its operation. -/
theorem assembledLinesDecode : Obligations.AssembledLinesDecode := by
  intro ch d e raw a x r k
  have hmessage {op : BitVec 4} (hop : opWithData op = true) (hc : op ≠ 0xC#4) (d1 d2 : BitVec 7) :
      [asmCommand op ch (0#1 ++ d1) (0#1 ++ d2)].map decode = [decodeMessage op ch d1 d2] :=
    congrArg (fun i => [i]) (decode_asmMessage hop hc ch d1 d2)
  have hencoded {w : OpWord} {i : Instr} (hi : i.wellFormed = true) (hw : encode i = w) : [w].map decode = [i] :=
    congrArg (fun j => [j]) (decode_of_encode hi hw)
  refine ⟨hmessage rfl (by decide) d e, hmessage rfl (by decide) d e, hmessage rfl (by decide) d e,
    hmessage rfl (by decide) d e, hencoded rfl (encode_programChange ch d 0), hmessage rfl (by decide) _ _,
    hencoded rfl rfl, hencoded rfl rfl, hencoded rfl rfl, hencoded rfl rfl, rfl, rfl, ?_, rfl⟩
  have hpull : decode (encode .pull) = .pull := decodeAfterEncode .pull rfl
  exact List.map_replicate.trans (congrArg (List.replicate k) hpull)

/-! The words of the test vectors, and the bits that select nothing. -/

/-- Settles O4: each word is the encoding of the operation listed. -/
theorem specWordsDecode : Obligations.SpecWordsDecode :=
  ⟨decode_of_encode rfl rfl, decode_of_encode rfl rfl, decode_of_encode rfl rfl, decode_of_encode rfl rfl,
    decode_of_encode rfl rfl, decode_of_encode rfl rfl, decode_of_encode rfl rfl, decode_of_encode rfl rfl,
    decode_of_encode rfl rfl, decode_of_encode rfl rfl, decode_of_encode rfl rfl, decode_of_encode rfl rfl⟩

/-- Settles O7: the arm of each operation in `exec` names none of these operands. -/
theorem ignoredOperandsChangeNothing : Obligations.IgnoredOperandsChangeNothing := fun _ _ _ _ _ _ _ _ _ _ _ =>
  ⟨rfl, rfl, rfl, rfl, rfl, rfl, rfl, rfl, rfl, rfl, rfl, rfl, rfl, rfl, rfl, rfl, rfl, rfl, rfl, rfl, rfl⟩

end Sys2Proof.Machine
end

section
/-! The channel command family: what each command does in an engine that is ready, the voice a note-on takes, and which
operation writes which part of the state. -/

namespace Sys2Proof.Machine

/-! The rules of the commands (40_channel_commands.md R49 to R55), once the engine runs and is configured (R45). -/

section
variable {s : State} {g : Settings} (h : s.ready g)
include h

theorem configuredOp_of_ready (k : Settings → Result) : configuredOp s k = k g := configuredOp_ready h.1 h.2

theorem execCcVolume_of_ready (val : BitVec 7) :
    execCcVolume val s = .next { s with vol := { s.vol with target := controllerLevel val } } :=
  configuredOp_of_ready h _

theorem execCcPan_of_ready (val : BitVec 7) :
    execCcPan val s = .next { s with pan := { s.pan with target := controllerLevel val } } :=
  configuredOp_of_ready h _

theorem execProgramChange_of_ready (prog : BitVec 7) : execProgramChange prog s = .next { s with program := prog } :=
  configuredOp_of_ready h _

theorem execPitchBend_of_ready (lsb msb : BitVec 7) :
    execPitchBend lsb msb s = .next { s with bend := bendOperand lsb msb } :=
  configuredOp_of_ready h _

theorem otherController_of_listed {cc : BitVec 7} (hcc : cc ∈ s.params.ignoredCc) : otherController cc s = .next s :=
  otherController_eq_next.mpr (.inl ⟨List.contains_iff_mem.mpr hcc, configuredOp_of_ready h _⟩)

theorem execPolyPressure_of_ready {note pk : BitVec 7} (hp : pianoKey note = some pk) :
    execPolyPressure note s = .next s :=
  execPolyPressure_eq_next.mpr ⟨h.1, .inr ⟨g, h.2, .inr ⟨pk, hp, rfl⟩⟩⟩

end

/-- Settles O26. -/
theorem volumeControllerSetsTarget : Obligations.VolumeControllerSetsTarget :=
  ⟨decode_of_encode rfl rfl, by decide +kernel, by decide +kernel, by decide +kernel,
    fun _ _ _ val h => execCcVolume_of_ready h val⟩

/-- Settles O27. -/
theorem panControllerSetsTarget : Obligations.PanControllerSetsTarget :=
  ⟨decode_of_encode rfl rfl, by decide +kernel, by decide +kernel, by decide +kernel,
    fun _ _ _ val h => execCcPan_of_ready h val⟩

/-- Settles O28: each of the seven rows consults the list with its own controller number. -/
theorem allowListedControllersChangeNothing : Obligations.AllowListedControllersChangeNothing := by
  intro s g ch val h hlist
  have ignored {cc : BitVec 7} (hcc : cc ∈ Config.defaultIgnoredCc) : otherController cc s = .next s :=
    otherController_of_listed h (hlist cc hcc)
  exact ⟨ignored (by decide), ignored (by decide), ignored (by decide), ignored (by decide), ignored (by decide),
    ignored (by decide), ignored (by decide)⟩

/-- Settles O29. -/
theorem programChangeStoresNumber : Obligations.ProgramChangeStoresNumber :=
  ⟨decode_of_encode rfl rfl, decode_of_encode rfl rfl, fun _ _ _ prog _ h => execProgramChange_of_ready h prog⟩

/-- Settles O31. -/
theorem polyPressureChangesNothing : Obligations.PolyPressureChangesNothing :=
  fun _ _ _ _ _ h hlow hhigh => execPolyPressure_of_ready h (pianoKey_some hlow hhigh)

/-! Pitch bend (30_encoding.md R37). -/

theorem toNat_append_bend (lsb msb : BitVec 7) : (msb ++ lsb).toNat = msb.toNat * 128 + lsb.toNat := by
  rw [BitVec.toNat_append, ← Nat.shiftLeft_add_eq_or_of_lt lsb.isLt, Nat.shiftLeft_eq]

/-- The 14-bit value lies in 0..16383, so that less its centre it is an s14. -/
theorem bendOperand_toInt (lsb msb : BitVec 7) :
    (bendOperand lsb msb).toInt = (msb.toNat * 128 + lsb.toNat : Int) - 8192 := by
  have hlsb := lsb.isLt
  have hmsb := msb.isLt
  have hsub : (bendOperand lsb msb).toNat = (8192 + (msb.toNat * 128 + lsb.toNat)) % 16384 := by
    rw [bendOperand, BitVec.toNat_sub, toNat_append_bend]
    rfl
  rw [BitVec.toInt_eq_toNat_cond, hsub]
  omega

/-- Settles O30: the register holds the operand of R37, and its read is the sign extension, of the same value. -/
theorem pitchBendStoresOffset : Obligations.PitchBendStoresOffset :=
  ⟨decode_of_encode rfl rfl, fun _ _ _ lsb msb h =>
    ⟨bendOperand lsb msb, execPitchBend_of_ready h lsb msb, bendOperand_toInt lsb msb, _, rfl,
      BitVec.toInt_signExtend_of_le (by decide)⟩⟩

/-! The voice selection (40_channel_commands.md R46). -/

section
variable {s : State} {pk : BitVec 7} {i : Slot}

theorem boundSlot_lowest (h : boundSlot s pk = some i) {j : Slot} (hj : j < i) : (s.voice j).key ≠ pk := by
  simpa using find?_is_lowest slots_ascending h j (mem_slots j) hj

theorem freeSlot_lowest (h : freeSlot s = some i) {j : Slot} (hj : j < i) :
    ¬((s.voice j).env = .off ∧ (s.voice j).key = Config.keyOff) := by
  simpa using find?_is_lowest slots_ascending h j (mem_slots j) hj

theorem exists_boundSlot (h : ∃ j, (s.voice j).key = pk) : ∃ i, boundSlot s pk = some i := by
  obtain ⟨j, hj⟩ := h
  exact Option.ne_none_iff_exists'.mp fun hnone => boundSlot_none hnone j hj

theorem boundSlot_eq_none (h : ∀ j, (s.voice j).key ≠ pk) : boundSlot s pk = none :=
  Option.eq_none_iff_forall_ne_some.mpr fun i hi => h i (boundSlot_some hi)

theorem exists_freeSlot (h : ∃ j, (s.voice j).env = .off ∧ (s.voice j).key = Config.keyOff) :
    ∃ i, freeSlot s = some i := by
  obtain ⟨j, hj⟩ := h
  exact Option.ne_none_iff_exists'.mp fun hnone => freeSlot_none hnone j hj

theorem freeSlot_eq_none (h : ∀ j, ¬((s.voice j).env = .off ∧ (s.voice j).key = Config.keyOff)) : freeSlot s = none :=
  Option.eq_none_iff_forall_ne_some.mpr fun i hi => h i (freeSlot_some hi)

/-- The one slot that holds a key is the slot bound to it. -/
theorem boundSlot_eq_some (hkey : (s.voice i).key = pk) (honly : ∀ j, (s.voice j).key = pk → j = i) :
    boundSlot s pk = some i := by
  obtain ⟨j, hj⟩ := exists_boundSlot ⟨i, hkey⟩
  rw [hj, honly j (boundSlot_some hj)]

theorem selectSlot_of_bound (h : boundSlot s pk = some i) : selectSlot s pk = i := by
  simp only [selectSlot, h]

theorem selectSlot_of_free (hb : boundSlot s pk = none) (h : freeSlot s = some i) : selectSlot s pk = i := by
  simp only [selectSlot, hb, h]

theorem selectSlot_of_steal (hb : boundSlot s pk = none) (hf : freeSlot s = none) : selectSlot s pk = stealSlot s := by
  simp only [selectSlot, hb, hf]

theorem elapsed_le_stealSlot (s : State) (j : Slot) : (s.voice j).elapsed ≤ (s.voice (stealSlot s)).elapsed := by
  rw [BitVec.le_def, (stealSlot_is_lowest_greatest s).1]
  exact elapsed_le_maxElapsed s j

/-- A slot below the stolen one has not the greatest count, or it would have been stolen. -/
theorem elapsed_lt_stealSlot {j : Slot} (hj : j < stealSlot s) :
    (s.voice j).elapsed < (s.voice (stealSlot s)).elapsed := by
  obtain ⟨hmax, hlowest⟩ := stealSlot_is_lowest_greatest s
  rw [BitVec.lt_def, hmax]
  exact lt_of_le_of_ne (elapsed_le_maxElapsed s j) (hlowest j hj)

end

/-- Settles O32: one clause for each step of the selection. -/
theorem voiceSelectionOrder : Obligations.VoiceSelectionOrder := by
  refine fun s pk => ⟨fun hbound => ?_, fun hunbound hfree => ?_, fun hunbound hnone => ?_⟩
  · obtain ⟨i, hi⟩ := exists_boundSlot hbound
    rw [selectSlot_of_bound hi]
    exact ⟨boundSlot_some hi, fun _ => boundSlot_lowest hi⟩
  · obtain ⟨i, hi⟩ := exists_freeSlot hfree
    rw [selectSlot_of_free (boundSlot_eq_none hunbound) hi]
    exact ⟨freeSlot_some hi, fun _ => freeSlot_lowest hi⟩
  · rw [selectSlot_of_steal (boundSlot_eq_none hunbound) (freeSlot_eq_none hnone)]
    exact ⟨elapsed_le_stealSlot s, fun _ => elapsed_lt_stealSlot⟩

/-! The envelope procedures of the note commands (42_envelope.md R64, R65), by the state of the voice. -/

section
variable {n : Numerics} {p : Params} {g : Settings} {v : Voice}

/-- The multiplier `RampMult` computes, before its validity check (42_envelope.md R63). -/
def rampFactor (n : Numerics) (p : Params) (start stop time : Word) : Word :=
  fAdd 0x3F800000#32 (fDiv (fSub (n.ln stop) (n.ln start)) (fMul time (rateWord p)))

/-- What the validity check of `RampMult` asks of a multiplier (42_envelope.md R63). -/
def multValid (m : Word) : Prop := fFinite m = true ∧ fLt 0 m = true

theorem rampMult_of_valid {start stop time : Word} (hm : multValid (rampFactor n p start stop time)) :
    rampMult n p start stop time = .ok (rampFactor n p start stop time) := rampMult_ok rfl hm

theorem rampMult_of_invalid {start stop time : Word} (hm : ¬multValid (rampFactor n p start stop time)) :
    rampMult n p start stop time = .error .envParam := rampMult_error rfl hm

theorem envKeyOn_of_sounding (hoff : v.env ≠ .off) (hhold : p.retrigger = .hold) : envKeyOn n p g v = .ok v := by
  simp [envKeyOn, hoff, hhold]

theorem envKeyOn_of_attack (hstart : v.env = .off ∨ p.retrigger = .restart) (horder : fLt g.peak g.sustain = false)
    (hm : multValid (rampFactor n p Config.envFloor g.peak g.attackT)) :
    envKeyOn n p g v = .ok { v with
      env := .attack, level := Config.envFloor, mult := rampFactor n p Config.envFloor g.peak g.attackT } := by
  simp [envKeyOn, if_pos hstart, horder, rampMult_of_valid hm]

theorem envKeyOn_of_fault (hstart : v.env = .off ∨ p.retrigger = .restart)
    (hbad : ¬(fLt g.peak g.sustain = false ∧ multValid (rampFactor n p Config.envFloor g.peak g.attackT))) :
    envKeyOn n p g v = .error .envParam := by
  cases horder : fLt g.peak g.sustain with
  | true => simp [envKeyOn, if_pos hstart, horder]
  | false =>
    have hm := fun hm => hbad ⟨horder, hm⟩
    simp [envKeyOn, if_pos hstart, horder, rampMult_of_invalid hm]

theorem envKeyOff_of_silent (henv : v.env = .release ∨ v.env = .off) : envKeyOff n p g v = .ok v := by
  rcases henv with henv | henv <;> simp [envKeyOff, henv]

theorem envKeyOff_of_release (henv : v.env = .attack ∨ v.env = .decay ∨ v.env = .sustain)
    (hm : multValid (rampFactor n p g.sustain Config.envFloor g.releaseT)) :
    envKeyOff n p g v =
      .ok { v with env := .release, mult := rampFactor n p g.sustain Config.envFloor g.releaseT } := by
  simp [envKeyOff, if_pos henv, rampMult_of_valid hm]

theorem envKeyOff_of_fault (henv : v.env = .attack ∨ v.env = .decay ∨ v.env = .sustain)
    (hbad : ¬multValid (rampFactor n p g.sustain Config.envFloor g.releaseT)) :
    envKeyOff n p g v = .error .envParam := by
  simp [envKeyOff, if_pos henv, rampMult_of_invalid hbad]

end

/-! Note-on (40_channel_commands.md R46). -/

/-- The voice a note-on hands to `EnvKeyOn`. -/
def struckVoice (n : Numerics) (p : Params) (pk vel : BitVec 7) (v : Voice) : Voice :=
  { oscSetFreq n p pk { v with key := pk, vel := vel } with elapsed := 0 }

theorem keyOnVoice_eq_envKeyOn (n : Numerics) (p : Params) (g : Settings) (pk vel : BitVec 7) (v : Voice) :
    keyOnVoice n p g pk vel v = envKeyOn n p g (struckVoice n p pk vel v) := rfl

section
variable {s : State} {g : Settings} {n : Numerics} {note vel pk : BitVec 7} {v : Voice} {c : Cause} (h : s.ready g)
  (hp : pianoKey note = some pk)
include h hp

theorem noteOn_of_ok (hv : envKeyOn n s.params g (struckVoice n s.params pk vel (s.voice (selectSlot s pk))) = .ok v) :
    noteOn n note vel s = .next (s.setVoice (selectSlot s pk) v) :=
  noteOn_eq_next.mpr ⟨h.1, .inr ⟨g, h.2, .inr ⟨pk, hp, .inr ⟨v, hv, rfl⟩⟩⟩⟩

theorem noteOn_of_error
    (hv : envKeyOn n s.params g (struckVoice n s.params pk vel (s.voice (selectSlot s pk))) = .error c) :
    noteOn n note vel s = .next (s.takeFault c) :=
  noteOn_eq_next.mpr ⟨h.1, .inr ⟨g, h.2, .inr ⟨pk, hp, .inl ⟨c, hv, rfl⟩⟩⟩⟩

end

/-- Settles O33: `EnvKeyOn` keeps a sounding voice under HOLD. -/
theorem retriggerUnderHoldKeepsEnvelope : Obligations.RetriggerUnderHoldKeepsEnvelope :=
  fun _ _ _ _ _ h hlow hhigh hhold hsounding =>
    noteOn_of_ok h (pianoKey_some hlow hhigh) (envKeyOn_of_sounding hsounding hhold)

/-- Settles O34: the multiplier of the statement is `rampFactor` from FLOOR to PEAK. -/
theorem noteOnStartsTheAttack : Obligations.NoteOnStartsTheAttack := by
  intro s g ch note vel h hlow hhigh hstart
  have hp := pianoKey_some hlow hhigh
  by_cases hgood : fLt g.peak g.sustain = false ∧
      multValid (rampFactor Config.numerics s.params Config.envFloor g.peak g.attackT)
  · obtain ⟨horder, hm⟩ := hgood
    exact (noteOn_of_ok h hp (envKeyOn_of_attack hstart horder hm)).trans
      (congrArg Host.Outcome.next (if_pos ⟨horder, hm⟩).symm)
  · exact (noteOn_of_error h hp (envKeyOn_of_fault hstart hgood)).trans
      (congrArg Host.Outcome.next (if_neg hgood).symm)

/-! Note-off (40_channel_commands.md R47, R48). -/

section
variable {s : State} {g : Settings} {n : Numerics} {note pk : BitVec 7} {i : Slot} {v : Voice} {c : Cause}
  (h : s.ready g) (hp : pianoKey note = some pk)
include h hp

theorem noteOff_of_unbound (hb : boundSlot s pk = none) : noteOff n note s = .next s :=
  noteOff_eq_next.mpr ⟨h.1, .inr ⟨g, h.2, .inr ⟨pk, hp, .inl ⟨hb, rfl⟩⟩⟩⟩

theorem noteOff_of_ok (hb : boundSlot s pk = some i) (hv : envKeyOff n s.params g (s.voice i) = .ok v) :
    noteOff n note s = .next (s.setVoice i v) :=
  noteOff_eq_next.mpr ⟨h.1, .inr ⟨g, h.2, .inr ⟨pk, hp, .inr ⟨i, hb, .inr ⟨v, hv, rfl⟩⟩⟩⟩⟩

theorem noteOff_of_error (hb : boundSlot s pk = some i) (hv : envKeyOff n s.params g (s.voice i) = .error c) :
    noteOff n note s = .next (s.takeFault c) :=
  noteOff_eq_next.mpr ⟨h.1, .inr ⟨g, h.2, .inr ⟨pk, hp, .inr ⟨i, hb, .inl ⟨c, hv, rfl⟩⟩⟩⟩⟩

end

/-- A voice written over itself. -/
@[simp] theorem State.setVoice_voice (s : State) (i : Slot) : s.setVoice i (s.voice i) = s := by
  simp [State.setVoice, State.voice]

/-- Settles O35: no slot is bound to the key, or `EnvKeyOff` answers the bound voice as it was. -/
theorem noteOffIsIdempotent : Obligations.NoteOffIsIdempotent := by
  intro s g ch note vel h hlow hhigh hsilent
  have hp := pianoKey_some hlow hhigh
  have hnoop : noteOff Config.numerics note s = .next s := by
    cases hb : boundSlot s (note - 20) with
    | none => exact noteOff_of_unbound h hp hb
    | some i =>
      rw [noteOff_of_ok h hp hb (envKeyOff_of_silent (hsilent i (boundSlot_some hb))), State.setVoice_voice]
  exact ⟨hnoop, hnoop⟩

/-- Settles O36: the multiplier of the statement is `rampFactor` from SUSTAIN to FLOOR. -/
theorem noteOffReleasesTheBoundVoice : Obligations.NoteOffReleasesTheBoundVoice := by
  intro s g ch note vel i h hlow hhigh hkey honly henv
  have hp := pianoKey_some hlow hhigh
  have hb := boundSlot_eq_some hkey honly
  refine ⟨rfl, ?_⟩
  by_cases hgood : multValid (rampFactor Config.numerics s.params g.sustain Config.envFloor g.releaseT)
  · exact (noteOff_of_ok h hp hb (envKeyOff_of_release henv hgood)).trans
      (congrArg Host.Outcome.next (if_pos hgood).symm)
  · exact (noteOff_of_error h hp hb (envKeyOff_of_fault henv hgood)).trans
      (congrArg Host.Outcome.next (if_neg hgood).symm)

/-! The owners of each part of the state (10_state.md R10 to R19, 40_channel_commands.md R45). -/

/-- A ramp's pull moves its value towards its target (43_primitives.md R72). -/
@[simp] theorem rampPull_target (r : Ramp) (up down : Word) : (rampPull r up down).target = r.target := by
  unfold rampPull
  dsimp only
  split_ifs <;> rfl

theorem configAccess_of_accessRefused {p : Params} {i : Instr} (h : accessRefused p i) :
    (∃ a d, i = .cfgWr a d) ∨ ∃ a, i = .cfgRd a := by
  rcases h with ⟨a, d, hi, -⟩ | ⟨a, hi, -⟩
  · exact .inl ⟨a, d, hi⟩
  · exact .inr ⟨a, hi⟩

/-- A flag that changes was set by an operation that is its source, or cleared by a write of `STATUS`. -/
theorem exec_flag_owner {i : Instr} {s t : State} (h : exec i s = .next t) (hi : i ≠ .reset) :
    (t.errProto ≠ s.errProto → protocolError s.params i = true ∨ ∃ d, i = .cfgWr 0x10 d) ∧
    (t.errCfg ≠ s.errCfg → (∃ a d, i = .cfgWr a d) ∨ ∃ a, i = .cfgRd a) ∧
    (t.errNumeric ≠ s.errNumeric → i = .pull ∨ ∃ d, i = .cfgWr 0x10 d) := by
  rcases exec_flags h hi with ⟨c, hsrc, hproto, hcfg, hnumeric⟩ | ⟨d, rfl, -⟩
  · rw [hproto, hcfg, hnumeric]
    cases c with
    | proto => exact ⟨fun _ => .inl hsrc, by simp, by simp⟩
    | cfg => exact ⟨by simp, fun _ => configAccess_of_accessRefused hsrc, by simp⟩
    | numeric => exact ⟨by simp, by simp, fun _ => .inl hsrc.1⟩
    | cfgUnset | envParam => simp
  · exact ⟨fun _ => .inr ⟨d, rfl⟩, fun _ => .inl ⟨_, d, rfl⟩, fun _ => .inr ⟨d, rfl⟩⟩

/-- MODE and FAULT_CAUSE are written by a fault raised in RUN, and by nothing else but RESET. -/
theorem exec_mode {i : Instr} {s t : State} (h : exec i s = .next t) (hi : i ≠ .reset) :
    (t.mode = s.mode ∧ t.faultCause = s.faultCause) ∨
      (s.mode = .run ∧ t.mode = .faulted ∧ ∃ c : Cause, t.faultCause = causeCode c) := by
  cases exec_next h with
  | fault c hm ht => exact .inr ⟨hm, by simp [ht], c, by simp [ht]⟩
  | reset ht hreset => exact absurd hreset hi
  | protoLogged hm ht | writeLogged hm ht | readLogged hm ht | same hm ht | vol hm x ht | pan hm x ht
  | program hm x ht | bend hm x ht | noteOn hm g hg note vel pk v hp hv ht | noteOff hm g hg note pk v k hp hb hv ht
  | pulled hm g hg vs acc hr l r hl hf ht | silenced hm g hg vs acc hr hst ht | wrote hm r d a ha hl ht
  | cleared hm d a ha ht | read w ht => exact .inl (by simp [ht])

/-- What the host has observed grows by PULL and CFG_RD alone, one output at a time. -/
theorem exec_observed {i : Instr} {s t : State} (h : exec i s = .next t) :
    t.observed = s.observed ∨
    (i = .pull ∧ ∃ l r a b, t.observed = s.observed ++ [.frame l r a b]) ∨
    ((∃ a, i = .cfgRd a) ∧ ∃ w, t.observed = s.observed ++ [.word w]) := by
  cases exec_next h with
  | pulled hm g hg vs acc hr l r hl hf ht hpull => exact .inr (.inl ⟨hpull, l, r, _, _, by rw [ht]; rfl⟩)
  | silenced hm g hg vs acc hr hst ht hpull => exact .inr (.inl ⟨hpull, 0, 0, 0, 0, by simp [ht]⟩)
  | read w ht hrd => exact .inr (.inr ⟨hrd, w, by rw [ht]; rfl⟩)
  | readLogged hm ht hrd => exact .inr (.inr ⟨hrd, 0, by simp [ht]⟩)
  | fault c hm ht | protoLogged hm ht | writeLogged hm ht | same hm ht | vol hm x ht | pan hm x ht | program hm x ht
  | bend hm x ht | noteOn hm g hg note vel pk v hp hv ht | noteOff hm g hg note pk v k hp hb hv ht
  | wrote hm r d a ha hl ht | cleared hm d a ha ht | reset ht => exact .inl (by simp [ht])

/-- Settles O56. -/
theorem outputsComeOnlyFromPullAndRead : Obligations.OutputsComeOnlyFromPullAndRead := fun _ _ _ h => exec_observed h

/-- The parts of the state besides the mode, the flags and the outputs: each stays unless the operation is one of its owners. -/
def ownersAloneWrite (i : Instr) (s t : State) : Prop :=
  t.params = s.params ∧ t.arriving = s.arriving ∧
  ((∀ a d, i ≠ .cfgWr a d) → t.cfg = s.cfg) ∧
  ((∀ ch p d, i ≠ .programChange ch p d) → t.program = s.program) ∧
  ((∀ ch l m, i ≠ .pitchBend ch l m) → t.bend = s.bend) ∧
  ((∀ ch v, i ≠ .ccVolume ch v) → t.vol.target = s.vol.target) ∧
  ((∀ ch v, i ≠ .ccPan ch v) → t.pan.target = s.pan.target) ∧
  (i ≠ .pull → t.vol.value = s.vol.value ∧ t.pan.value = s.pan.value) ∧
  (i ≠ .pull → (∀ ch d e, i ≠ .noteOn ch d e) → (∀ ch d e, i ≠ .noteOff ch d e) → (∀ ch d, i ≠ .noteOnVel0 ch d) →
    t.voices = s.voices)

theorem exec_ownersAloneWrite {i : Instr} {s t : State} (h : exec i s = .next t) (hi : i ≠ .reset) :
    ownersAloneWrite i s t := by
  unfold ownersAloneWrite
  cases exec_next h with
  | reset ht hreset => exact absurd hreset hi
  | vol hm x ht howner =>
    obtain ⟨ch, v, rfl⟩ := howner
    simp [ht]
  | pan hm x ht howner =>
    obtain ⟨ch, v, rfl⟩ := howner
    simp [ht]
  | program hm x ht howner =>
    obtain ⟨ch, p, d, rfl⟩ := howner
    simp [ht]
  | bend hm x ht howner =>
    obtain ⟨ch, l, m, rfl⟩ := howner
    simp [ht]
  | noteOn hm g hg note vel pk v hp hv ht howner =>
    obtain ⟨ch, rfl⟩ := howner
    simp [ht]
  | noteOff hm g hg note pk v k hp hb hv ht howner =>
    obtain ⟨ch, e, rfl⟩ | ⟨ch, rfl⟩ := howner <;> simp [ht]
  | pulled hm g hg vs acc hr l r hl hf ht howner | silenced hm g hg vs acc hr hst ht howner
  | wrote hm r d a ha hl ht howner => simp [ht, howner]
  | fault c hm ht | protoLogged hm ht | writeLogged hm ht | readLogged hm ht | same hm ht | cleared hm d a ha ht
  | read w ht => simp [ht]

/-- Settles O55: the flags, the mode, the outputs and the other parts, each by its own lemma. -/
theorem stateIsWrittenOnlyByItsOwners : Obligations.StateIsWrittenOnlyByItsOwners := by
  intro i s t h hi
  obtain ⟨hparams, harriving, hothers⟩ := exec_ownersAloneWrite h hi
  obtain ⟨hproto, hcfg, hnumeric⟩ := exec_flag_owner h hi
  have hobserved (hpull : i ≠ .pull) (hread : ∀ a, i ≠ .cfgRd a) : t.observed = s.observed := by
    rcases exec_observed h with hsame | ⟨hi, -⟩ | ⟨⟨a, hi⟩, -⟩
    · exact hsame
    · exact absurd hi hpull
    · exact absurd hi (hread a)
  exact ⟨hparams, harriving, hobserved, exec_mode h hi, hproto, hcfg, hnumeric, hothers⟩

end Sys2Proof.Machine
end

section
/-! Sounding alike (41_render.md R57, R58): a pull reads no key, velocity or elapsed count, so that a render commutes with
changing them, and an operation that plays no note takes engines that sound alike to engines that sound alike. -/

namespace Sys2Proof.Machine

/-! The render of a voice under other labels. -/

/-- The voice with the key, the velocity and the elapsed count of another. -/
def Voice.relabel (v w : Voice) : Voice := { v with key := w.key, vel := w.vel, elapsed := w.elapsed }

theorem Voice.relabel_eq_iff {v w : Voice} : v.relabel w = w ↔ v.soundsLike w := by
  cases v
  cases w
  simp [Voice.relabel, Voice.soundsLike]

theorem Voice.soundsLike_refl (v : Voice) : v.soundsLike v :=
  ⟨rfl, rfl, rfl, rfl, rfl, rfl, rfl, rfl, rfl, rfl, rfl⟩

theorem Voice.soundsLike_relabel (v w : Voice) : v.soundsLike (v.relabel w) := Voice.soundsLike_refl v

theorem Voice.soundsLike_tickElapsed {v w : Voice} (h : v.soundsLike w) :
    (tickElapsed v).soundsLike (tickElapsed w) := h

theorem oscAdvance_relabel (v w : Voice) : oscAdvance (v.relabel w) = (oscAdvance v).relabel w := rfl

section
variable (n : Numerics) (p : Params) (g : Settings) (v w : Voice)

theorem filterStep_relabel (x : Word) :
    filterStep n p g (v.relabel w) x = ((filterStep n p g v x).1.relabel w, (filterStep n p g v x).2) := by
  unfold filterStep
  cases g.ctrl.topo <;> rfl

theorem attackEnd_relabel : attackEnd n p g (v.relabel w) = (attackEnd n p g v).map (·.relabel w) := by
  unfold attackEnd
  cases rampMult n p g.peak g.sustain g.decayT with
  | error c => split_ifs <;> rfl
  | ok md =>
    dsimp only
    split_ifs <;> rfl

theorem envAdvance_relabel : envAdvance n p g (v.relabel w) = (envAdvance n p g v).map (·.relabel w) := by
  have henv : (v.relabel w).env = v.env := rfl
  have hproduct : fMul (v.relabel w).level (v.relabel w).mult = fMul v.level v.mult := rfl
  cases h : v.env <;> simp only [envAdvance, henv, hproduct, h, attackEnd_relabel]
  case off | sustain => rfl
  all_goals split_ifs <;> rfl

theorem envStep_relabel (y : Word) :
    envStep n p g (v.relabel w) y = (envStep n p g v y).map fun r => (r.1.relabel w, r.2) := by
  rw [envStep, envAdvance_relabel, envStep]
  cases envAdvance n p g v <;> rfl

theorem voiceSample_relabel :
    voiceSample n p g (v.relabel w) = (voiceSample n p g v).map fun r => (r.1.relabel w, r.2) := by
  have henv : (v.relabel w).env = v.env := rfl
  unfold voiceSample
  rw [henv]
  split_ifs
  · rfl
  · dsimp only
    rw [oscAdvance_relabel, filterStep_relabel, envStep_relabel]
    rfl

end

/-- The voices with the labels of other voices, slot by slot. -/
def relabelVoices (vs ws : Vector Voice 32) : Vector Voice 32 := Vector.zipWith Voice.relabel vs ws

theorem getElem_relabelVoices (vs ws : Vector Voice 32) (i : Slot) :
    (relabelVoices vs ws)[i.val] = vs[i.val].relabel ws[i.val] :=
  Vector.getElem_zipWith i.isLt

theorem relabelVoices_set (vs ws : Vector Voice 32) (i : Slot) (v : Voice) :
    relabelVoices (vs.set i.val v) ws = (relabelVoices vs ws).set i.val (v.relabel ws[i.val]) := by
  ext1 j hj
  by_cases hij : i.val = j
  · subst hij
    simp [relabelVoices]
  · simp [relabelVoices, Vector.getElem_set_ne, hij]

/-- A render does not read the labels. -/
theorem renderSlots_relabel (n : Numerics) (p : Params) (g : Settings) (ws : Vector Voice 32) :
    ∀ (l : List Slot) (vs : Vector Voice 32) (acc : Word),
      renderSlots n p g l (relabelVoices vs ws) acc =
        (renderSlots n p g l vs acc).map fun r => (relabelVoices r.1 ws, r.2) := by
  intro l
  induction l with
  | nil => intro vs acc; rfl
  | cons i l ih =>
    intro vs acc
    rw [renderSlots, renderSlots, getElem_relabelVoices, voiceSample_relabel]
    cases voiceSample n p g vs[i.val] with
    | error c => rfl
    | ok r => exact (congrArg (fun us => renderSlots n p g l us _) (relabelVoices_set vs ws i r.1).symm).trans (ih _ _)

/-! Updates of engines that sound alike. -/

section
variable {s t : State}

theorem relabelVoices_of_soundsLike (h : s.soundsLike t) : relabelVoices s.voices t.voices = t.voices := by
  obtain ⟨-, -, -, -, -, hvoices⟩ := h
  ext1 j hj
  exact (getElem_relabelVoices s.voices t.voices ⟨j, hj⟩).trans (Voice.relabel_eq_iff.mpr (hvoices ⟨j, hj⟩))

theorem State.soundsLike_flagged (h : s.soundsLike t) (c : Cause) : (s.flagged c).soundsLike (t.flagged c) := by
  simpa [State.soundsLike] using h

theorem State.soundsLike_takeFault (h : s.soundsLike t) (c : Cause) : (s.takeFault c).soundsLike (t.takeFault c) := by
  obtain ⟨-, hrest⟩ := h
  simpa [State.soundsLike] using hrest

theorem State.soundsLike_reconstructed (h : s.soundsLike t) : s.reconstructed.soundsLike t.reconstructed := by
  obtain ⟨-, -, -, -, hparams, -⟩ := h
  refine ⟨rfl, rfl, rfl, rfl, hparams, fun i => ?_⟩
  rw [State.voice_reconstructed, State.voice_reconstructed]
  exact Voice.soundsLike_refl Voice.silent

theorem State.soundsLike_volTarget (h : s.soundsLike t) (x : Word) :
    State.soundsLike { s with vol := { s.vol with target := x } } { t with vol := { t.vol with target := x } } := by
  obtain ⟨hmode, hcfg, hvol, hrest⟩ := h
  exact ⟨hmode, hcfg, by rw [hvol], hrest⟩

theorem State.soundsLike_panTarget (h : s.soundsLike t) (x : Word) :
    State.soundsLike { s with pan := { s.pan with target := x } } { t with pan := { t.pan with target := x } } := by
  obtain ⟨hmode, hcfg, hvol, hpan, hrest⟩ := h
  exact ⟨hmode, hcfg, hvol, by rw [hpan], hrest⟩

theorem State.soundsLike_pulledState (h : s.soundsLike t) (g : Settings) (vs : Vector Voice 32) :
    (pulledState g vs s).soundsLike (pulledState g (relabelVoices vs t.voices) t) := by
  obtain ⟨hmode, hcfg, hvol, hpan, hparams, -⟩ := h
  refine ⟨hmode, hcfg, by simp [hvol], by simp [hpan], hparams, fun i => ?_⟩
  rw [State.voice_pulledState, State.voice_pulledState, getElem_relabelVoices]
  exact Voice.soundsLike_tickElapsed (Voice.soundsLike_relabel _ _)

end

/-- Whether a register answers a word, the configuration alone says. -/
theorem readReg_eq_none_iff {s t : State} (hcfg : s.cfg = t.cfg) {r : RegName} :
    s.readReg r = none ↔ t.readReg r = none := by
  cases r with
  | cfg r => rw [State.readReg, State.readReg, hcfg]
  | reserved => exact Iff.rfl
  | _ => simp [State.readReg]

/-! Following: where one result is a next state, so is the other, and the two states are related. -/

/-- `r'` answers a state related to the one `r` answers, if `r` answers one. -/
def Follows (R : State → State → Prop) (r r' : Result) : Prop := ∀ a, r = .next a → ∃ b, r' = .next b ∧ R a b

/-- Two engines that sound alike and whose outputs since `s` and `t` are the same. -/
def soundsLikeSince (s t a b : State) : Prop :=
  a.soundsLike b ∧ ∃ out, a.observed = s.observed ++ out ∧ b.observed = t.observed ++ out

theorem Follows.next {R : State → State → Prop} {a b : State} (h : R a b) : Follows R (.next a) (.next b) := by
  rintro _ ⟨⟩
  exact ⟨b, rfl, h⟩

theorem Follows.fault {R : State → State → Prop} {f : Fault} {r : Result} : Follows R (.fault f) r := by
  rintro _ ⟨⟩

section
variable {R : State → State → Prop} {s t : State} {c : Cause} (h : s.soundsLike t)
include h

theorem whenRunning_follows {k k' : Result} (hk : Follows R k k') : Follows R (whenRunning s k) (whenRunning t k') := by
  obtain ⟨hmode, -⟩ := h
  rw [whenRunning, whenRunning, ← hmode]
  cases s.mode with
  | run => exact hk
  | faulted => exact Follows.fault

theorem configuredOp_follows {k k' : Settings → Result} (hunset : R (s.takeFault .cfgUnset) (t.takeFault .cfgUnset))
    (hk : ∀ g, Follows R (k g) (k' g)) : Follows R (configuredOp s k) (configuredOp t k') := by
  refine whenRunning_follows h ?_
  obtain ⟨-, hcfg, -⟩ := h
  rw [whenConfigured, whenConfigured, ← hcfg]
  cases s.cfg.settings with
  | none => exact Follows.next hunset
  | some g => exact hk g

theorem policyError_follows {f : State → State}
    (hlogged : (f (s.flagged c)).soundsLike (f (t.flagged c))) :
    Follows State.soundsLike (policyError c s f) (policyError c t f) := by
  have ⟨_, _, _, _, hparams, _⟩ := h
  rw [policyError, policyError, ← hparams]
  cases s.params.strict with
  | false => exact Follows.next hlogged
  | true => exact Follows.next (State.soundsLike_takeFault (State.soundsLike_flagged h c) c)

theorem protoError_follows : Follows State.soundsLike (protoError s) (protoError t) :=
  policyError_follows h (State.soundsLike_flagged h .proto)

theorem writeRefused_follows : Follows State.soundsLike (writeRefused s) (writeRefused t) :=
  policyError_follows h (State.soundsLike_flagged h .cfg)

theorem readRefused_follows : Follows State.soundsLike (readRefused s) (readRefused t) :=
  policyError_follows h (State.soundsLike_flagged h .cfg)

theorem illegalOp_follows : Follows State.soundsLike (illegalOp s) (illegalOp t) :=
  whenRunning_follows h (protoError_follows h)

/-- A command whose rule takes engines that sound alike to engines that sound alike. -/
theorem command_follows {k k' : Settings → Result} (hk : ∀ g, Follows State.soundsLike (k g) (k' g)) :
    Follows State.soundsLike (configuredOp s k) (configuredOp t k') :=
  configuredOp_follows h (State.soundsLike_takeFault h .cfgUnset) hk

theorem otherController_follows (cc : BitVec 7) :
    Follows State.soundsLike (otherController cc s) (otherController cc t) := by
  have ⟨_, _, _, _, hparams, _⟩ := h
  rw [otherController, otherController, ← hparams]
  cases s.params.ignoredCc.contains cc with
  | false => exact illegalOp_follows h
  | true => exact command_follows h fun _ => Follows.next h

theorem execPolyPressure_follows (note : BitVec 7) :
    Follows State.soundsLike (execPolyPressure note s) (execPolyPressure note t) := by
  refine command_follows h fun _ => ?_
  cases pianoKey note with
  | none => exact protoError_follows h
  | some pk => exact Follows.next h

theorem execCfgWr_follows (a : BitVec 8) (data : Word) :
    Follows State.soundsLike (execCfgWr a data s) (execCfgWr a data t) := by
  refine whenRunning_follows h ?_
  have hrefused := writeRefused_follows h
  obtain ⟨hmode, hcfg, hvol, hpan, hparams, hvoices⟩ := h
  cases regAt a with
  | cfg r =>
    dsimp only
    rw [← hparams, ← hcfg]
    split_ifs
    · exact Follows.next ⟨hmode, rfl, hvol, hpan, rfl, hvoices⟩
    · exact hrefused
  | status =>
    dsimp only
    split_ifs
    · exact hrefused
    · exact Follows.next ⟨hmode, hcfg, hvol, hpan, hparams, hvoices⟩
  | _ => exact hrefused

theorem execCfgRd_follows (a : BitVec 8) : Follows State.soundsLike (execCfgRd a s) (execCfgRd a t) := by
  have ⟨hmode, hcfg, _⟩ := h
  rw [execCfgRd, execCfgRd, ← hmode]
  cases hs : s.readReg (regAt a) with
  | some w =>
    have hne : t.readReg (regAt a) ≠ none := fun ht => by simp [(readReg_eq_none_iff hcfg).mpr ht] at hs
    obtain ⟨w', ht⟩ := Option.ne_none_iff_exists'.mp hne
    rw [ht]
    exact Follows.next h
  | none =>
    rw [(readReg_eq_none_iff hcfg).mp hs]
    cases s.mode with
    | faulted => exact Follows.fault
    | run =>
      dsimp only
      split_ifs
      · exact readRefused_follows h
      · exact Follows.next (State.soundsLike_takeFault h .cfgUnset)

/-! PULL. -/

/-- The output stages of pulls that sound alike give the same output, or the same error. -/
theorem outputStage_follows {a b : State} (hab : a.soundsLike b) (ha : a.observed = s.observed)
    (hb : b.observed = t.observed) (acc : Word) :
    Follows (soundsLikeSince s t) (outputStage s a acc) (outputStage t b acc) := by
  have hfault := State.soundsLike_takeFault h .numeric
  have hlogged := State.soundsLike_flagged hab .numeric
  obtain ⟨-, -, -, -, hparams, -⟩ := h
  have ⟨_, _, hvol, hpan, _⟩ := hab
  rw [outputStage, outputStage, ← hvol, ← hpan]
  split_ifs
  · exact Follows.next ⟨hab, [_], by rw [State.emit_observed, ha], by rw [State.emit_observed, hb]⟩
  · rw [numericError, numericError, ← hparams]
    split_ifs
    · exact Follows.next ⟨hfault, [], by simp, by simp⟩
    · exact Follows.next ⟨hlogged, [.frame 0 0 0 0], by simp [ha], by simp [hb]⟩

theorem pullWith_follows (n : Numerics) : Follows (soundsLikeSince s t) (pullWith n s) (pullWith n t) := by
  have hfaulted (c : Cause) : soundsLikeSince s t (s.takeFault c) (t.takeFault c) :=
    ⟨State.soundsLike_takeFault h c, [], by simp, by simp⟩
  refine configuredOp_follows h (hfaulted .cfgUnset) fun g => ?_
  have ⟨_, _, _, _, hparams, _⟩ := h
  have hrender := renderSlots_relabel n t.params g t.voices slots s.voices 0#32
  rw [relabelVoices_of_soundsLike h] at hrender
  rw [hrender, ← hparams]
  cases renderSlots n s.params g slots s.voices 0#32 with
  | error c => exact Follows.next (hfaulted c)
  | ok r => exact outputStage_follows h (State.soundsLike_pulledState h g r.1) rfl rfl r.2

/-- An operation that plays no note takes engines that sound alike to engines that sound alike. -/
theorem exec_follows {i : Instr} (hi : ¬playsNote i) : Follows State.soundsLike (exec i s) (exec i t) := by
  cases i with
  | illegalOpword | illegalNoStatus | illegalChannelPressure | illegalSystem | illegalData1 | illegalData2 =>
    exact illegalOp_follows h
  | ccIgnored1 | ccIgnored64 | ccIgnored91 | ccIgnored92 | ccIgnored93 | ccIgnored94 | ccIgnored95 | ccUnhandled =>
    exact otherController_follows h _
  | programChange | pitchBend => exact command_follows h fun _ => Follows.next h
  | ccVolume ch val => exact command_follows h fun _ => Follows.next (State.soundsLike_volTarget h _)
  | ccPan ch val => exact command_follows h fun _ => Follows.next (State.soundsLike_panTarget h _)
  | polyPressure ch note => exact execPolyPressure_follows h note
  | cfgWr a data => exact execCfgWr_follows h a data
  | cfgRd a => exact execCfgRd_follows h a
  | reset => exact Follows.next (State.soundsLike_reconstructed h)
  | pull =>
    intro a ha
    obtain ⟨b, hb, hab, -⟩ := pullWith_follows h _ a ha
    exact ⟨b, hb, hab⟩
  | noteOn ch note vel => exact absurd (.inl ⟨ch, note, vel, rfl⟩) hi
  | noteOff ch note vel => exact absurd (.inr (.inl ⟨ch, note, vel, rfl⟩)) hi
  | noteOnVel0 ch note => exact absurd (.inr (.inr ⟨ch, note, rfl⟩)) hi

end

/-- Settles O42: a render commutes with changing labels, and no gate, error procedure or output stage reads one. -/
theorem soundIgnoresProgramBendVelocity : Obligations.SoundIgnoresProgramBendVelocity := by
  refine ⟨fun s t s' h hs => ?_, fun i s t s' hi h => exec_follows h hi s'⟩
  obtain ⟨t', ht, hlike, out, hout⟩ := pullWith_follows h _ s' hs
  exact ⟨t', out, ht, hlike, hout⟩

end Sys2Proof.Machine
end

section
/-! The sample of a voice (41_render.md R58): the envelope's step by the state of the voice (42_envelope.md R66). -/

namespace Sys2Proof.Machine

section
variable {n : Numerics} {p : Params} {g : Settings} {v v' : Voice} {x y z : Word}

/-- The filter leaves what the envelope reads. -/
theorem filterStep_envelope (n : Numerics) (p : Params) (g : Settings) (v : Voice) (x : Word) :
    (filterStep n p g v x).1.env = v.env ∧ (filterStep n p g v x).1.level = v.level ∧
      (filterStep n p g v x).1.mult = v.mult := by
  obtain ⟨a, b, c, d, e, f, hstep, -⟩ := filterStep_frame n p g v x
  rw [hstep]
  exact ⟨rfl, rfl, rfl⟩

theorem voiceSample_of_sounding (hoff : v.env ≠ .off) :
    voiceSample n p g v =
      envStep n p g (filterStep n p g (oscAdvance v) (oscOut n g.ctrl.waveform v.phase)).1
        (filterStep n p g (oscAdvance v) (oscOut n g.ctrl.waveform v.phase)).2 :=
  if_neg hoff

theorem voiceSample_of_off (hoff : v.env = .off) : voiceSample n p g v = .ok (v, 0) := if_pos hoff

theorem envStep_of_ok (h : envAdvance n p g v = .ok v') (y : Word) :
    envStep n p g v y = .ok (v', if v'.env = .off then 0 else fMul y v'.level) := by
  rw [envStep, h]
  rfl

theorem envStep_of_sounding (h : envAdvance n p g v = .ok v') (hoff : v'.env ≠ .off) :
    envStep n p g v y = .ok (v', fMul y v'.level) := by
  rw [envStep_of_ok h, if_neg hoff]

theorem envStep_of_silent (h : envAdvance n p g v = .ok v') (hoff : v'.env = .off) :
    envStep n p g v y = .ok (v', 0) := by
  rw [envStep_of_ok h, if_pos hoff]

theorem envStep_of_error {c : Cause} (h : envAdvance n p g v = .error c) (y : Word) : envStep n p g v y = .error c := by
  rw [envStep, h]

theorem envStep_eq_ok (h : envStep n p g v y = .ok (v', z)) :
    envAdvance n p g v = .ok v' ∧ z = if v'.env = .off then 0 else fMul y v'.level := by
  cases hadv : envAdvance n p g v with
  | error c =>
    rw [envStep_of_error hadv] at h
    cases h
  | ok u =>
    rw [envStep_of_ok hadv] at h
    cases h
    exact ⟨rfl, rfl⟩

theorem envAdvance_of_attack (henv : v.env = .attack) (hbelow : fLe g.peak (fMul v.level v.mult) = false) :
    envAdvance n p g v = .ok { v with level := fMul v.level v.mult } := by
  simp [envAdvance, henv, hbelow]

theorem envAdvance_of_peak (henv : v.env = .attack) (hpeak : fLe g.peak (fMul v.level v.mult) = true) :
    envAdvance n p g v = attackEnd n p g v := by
  simp [envAdvance, henv, hpeak]

theorem envAdvance_of_decay (henv : v.env = .decay) :
    envAdvance n p g v =
      .ok (if fLe (fMul v.level v.mult) g.sustain then
        { v with level := fMul v.level v.mult, env := .sustain, mult := 0x3F800000 }
      else { v with level := fMul v.level v.mult }) := by
  simp only [envAdvance, henv]
  split_ifs <;> rfl

theorem envAdvance_of_sustain (henv : v.env = .sustain) : envAdvance n p g v = .ok v := by
  simp [envAdvance, henv]

theorem envAdvance_of_release (henv : v.env = .release) :
    envAdvance n p g v =
      .ok (if fLe (fMul v.level v.mult) Config.envFloor then
        { v with level := Config.envFloor, env := .off, phase := 0 }
      else { v with level := fMul v.level v.mult }) := by
  simp only [envAdvance, henv]
  split_ifs <;> rfl

/-- What the end of the attack asks of the configuration (42_envelope.md R66). -/
def decayValid (n : Numerics) (p : Params) (g : Settings) : Prop :=
  fLt g.peak g.sustain = false ∧ multValid (rampFactor n p g.peak g.sustain g.decayT) ∧
    fLt (fMul g.sustain (rampFactor n p g.peak g.sustain g.decayT)) Config.envFloor = false

theorem attackEnd_of_valid (h : decayValid n p g) :
    attackEnd n p g v =
      .ok { v with level := g.peak, mult := rampFactor n p g.peak g.sustain g.decayT, env := .decay } := by
  obtain ⟨horder, hm, hfloor⟩ := h
  simp [attackEnd, horder, rampMult_of_valid hm, hfloor]

theorem attackEnd_of_invalid (h : ¬decayValid n p g) : attackEnd n p g v = .error .envParam := by
  cases horder : fLt g.peak g.sustain with
  | true => simp [attackEnd, horder]
  | false =>
    by_cases hm : multValid (rampFactor n p g.peak g.sustain g.decayT)
    · have hfloor : fLt (fMul g.sustain (rampFactor n p g.peak g.sustain g.decayT)) Config.envFloor = true :=
        Bool.of_not_eq_false fun hfloor => h ⟨horder, hm, hfloor⟩
      simp [attackEnd, horder, rampMult_of_valid hm, hfloor]
    · simp [attackEnd, horder, rampMult_of_invalid hm]

theorem attackEnd_env (h : attackEnd n p g v = .ok v') : v'.env = .decay := by
  by_cases hvalid : decayValid n p g
  · rw [attackEnd_of_valid hvalid] at h
    cases h
    rfl
  · rw [attackEnd_of_invalid hvalid] at h
    cases h

/-- A voice whose envelope reaches off was in release, and its level reached FLOOR. -/
theorem envAdvance_to_off (hoff : v.env ≠ .off) (h : envAdvance n p g v = .ok v') (hoff' : v'.env = .off) :
    v.env = .release ∧ fLe (fMul v.level v.mult) Config.envFloor = true ∧ v'.phase = 0 ∧
      v'.level = Config.envFloor := by
  cases henv : v.env with
  | off => exact absurd henv hoff
  | attack =>
    cases hpeak : fLe g.peak (fMul v.level v.mult) with
    | false =>
      rw [envAdvance_of_attack henv hpeak] at h
      cases h
      exact absurd hoff' hoff
    | true =>
      rw [envAdvance_of_peak henv hpeak] at h
      rw [attackEnd_env h] at hoff'
      cases hoff'
  | decay =>
    rw [envAdvance_of_decay henv] at h
    cases h
    split_ifs at hoff'
    exact absurd hoff' hoff
  | sustain =>
    rw [envAdvance_of_sustain henv] at h
    cases h
    exact absurd hoff' hoff
  | release =>
    rw [envAdvance_of_release henv] at h
    cases h
    split_ifs at hoff' ⊢ with hfloor
    · exact ⟨rfl, hfloor, rfl, rfl⟩
    · exact absurd hoff' hoff

end

/-- Settles O41: the filter hands the envelope the voice's own state, level and multiplier. -/
theorem fallingSilentResetsThePhase : Obligations.FallingSilentResetsThePhase := by
  intro n p g v v' y hoff h hoff'
  rw [voiceSample_of_sounding hoff] at h
  obtain ⟨henv, hlevel, hmult⟩ := filterStep_envelope n p g (oscAdvance v) (oscOut n g.ctrl.waveform v.phase)
  obtain ⟨hadv, hy⟩ := envStep_eq_ok h
  obtain ⟨hrelease, hfloor, hphase, hlevel'⟩ := envAdvance_to_off (by rwa [henv]) hadv hoff'
  rw [henv] at hrelease
  rw [hlevel, hmult] at hfloor
  rw [if_pos hoff'] at hy
  exact ⟨hrelease, hy, hphase, hlevel', hfloor⟩

/-- Settles O58, one case for each sounding state; the multiplier of the statement is `rampFactor` from PEAK to
SUSTAIN. -/
theorem soundingVoiceSample : Obligations.SoundingVoiceSample := by
  intro n p g v u y hfilter level md
  have hstep : filterStep n p g (oscAdvance v) (oscOut n g.ctrl.waveform v.phase) = (u, y) := hfilter
  obtain ⟨henv, hlevel, hmult⟩ : u.env = v.env ∧ u.level = v.level ∧ u.mult = v.mult := by
    have henvelope := filterStep_envelope n p g (oscAdvance v) (oscOut n g.ctrl.waveform v.phase)
    rwa [hstep] at henvelope
  have hproduct : fMul u.level u.mult = level := by rw [hlevel, hmult]
  have hsounding {e : EnvState} (hv : v.env = e) (hoff : e ≠ .off) :
      u.env = e ∧ u.env ≠ .off ∧ voiceSample n p g v = envStep n p g u y := by
    have hvoff : v.env ≠ .off := hv ▸ hoff
    exact ⟨henv.trans hv, henv ▸ hvoff, by rw [voiceSample_of_sounding hvoff, hstep]⟩
  refine ⟨fun hv hbelow => ?_, fun hv hpeak => ?_, fun hv => ?_, fun hv => ?_, fun hv => ?_⟩ <;>
    obtain ⟨hu, hoff, hsample⟩ := hsounding hv (by decide) <;> rw [hsample]
  · have hadv := envAdvance_of_attack (n := n) (p := p) hu (hproduct ▸ hbelow)
    rw [hproduct] at hadv
    exact envStep_of_sounding hadv hoff
  · have hadv := envAdvance_of_peak (n := n) (p := p) hu (hproduct ▸ hpeak)
    by_cases hvalid : decayValid n p g
    · rw [attackEnd_of_valid hvalid] at hadv
      obtain ⟨horder, ⟨hfin, hpos⟩, hfloor⟩ := hvalid
      exact (envStep_of_sounding hadv nofun).trans (if_pos ⟨horder, hfin, hpos, hfloor⟩).symm
    · rw [attackEnd_of_invalid hvalid] at hadv
      refine (envStep_of_error hadv y).trans (if_neg ?_).symm
      exact fun ⟨horder, hfin, hpos, hfloor⟩ => hvalid ⟨horder, ⟨hfin, hpos⟩, hfloor⟩
  · have hadv := envAdvance_of_decay (n := n) (p := p) (g := g) hu
    rw [hproduct] at hadv
    split_ifs at hadv ⊢
    · exact envStep_of_sounding hadv nofun
    · exact envStep_of_sounding hadv hoff
  · rw [envStep_of_sounding (envAdvance_of_sustain hu) hoff, hlevel]
  · have hadv := envAdvance_of_release (n := n) (p := p) (g := g) hu
    rw [hproduct] at hadv
    change _ = Except.ok (if fLe level Config.envFloor = true then _ else _)
    split_ifs at hadv ⊢
    · exact envStep_of_silent hadv rfl
    · exact envStep_of_sounding hadv hoff

end Sys2Proof.Machine
end

section
/-! The panned output and the 16-bit sample (41_render.md R59, R60). -/

namespace Sys2Proof.Machine

/-! The pan law. -/

section
variable {m x : Word}

/-- `m * 1.0` is `m`, of either sign. -/
theorem fMul_one_of_finite (hm : fFinite m = true) : fMul m 0x3F800000#32 = m := by
  obtain ⟨neg, mag, hm⟩ := fFinite_iff.mp hm
  obtain ⟨bits, hbits, rfl, rfl⟩ := floatValue_fin hm
  rw [fMul_fin hm floatValue_one, roundWord, roundMagnitude_exact (Nat.two_pow_pos _) hbits, Bool.xor_false]

/-- `m * 0.0` is a zero. -/
theorem fMul_zero_of_finite (hm : fFinite m = true) : ∃ neg, floatValue (fMul m 0#32) = .fin neg 0 := by
  obtain ⟨neg, mag, hm⟩ := fFinite_iff.mp hm
  have hzero : floatValue 0#32 = .fin false 0 := rfl
  rw [fMul_fin hm hzero, Nat.mul_zero, roundWord, roundMagnitude_zero (Nat.two_pow_pos _)]
  exact ⟨_, floatValue_zeroWord _⟩

end

/-- Settles O43: `1.0 - p` is 1.0, 0.0 and 0.5 at the three listed pans. -/
theorem panLawIsLinear : Obligations.PanLawIsLinear := by
  have hleft : fSub 0x3F800000#32 0#32 = 0x3F800000#32 := by decide +kernel
  have hright : fSub 0x3F800000#32 0x3F800000#32 = 0#32 := by decide +kernel
  have hmiddle : fSub 0x3F800000#32 0x3F000000#32 = 0x3F000000#32 := by decide +kernel
  refine ⟨fun _ _ => rfl, fun m hm => ⟨?_, fMul_one_of_finite hm, ?_, rfl, fMul_zero_of_finite hm, ?_⟩⟩
  · exact (congrArg (fMul m) hleft).trans (fMul_one_of_finite hm)
  · exact congrArg (fMul m) hmiddle
  · have hzero := fMul_zero_of_finite hm
    rwa [← hright] at hzero

/-! The 16-bit sample. -/

theorem floatValue_maxSample : floatValue 0x46FFFE00#32 = .fin false (32767 * 2 ^ 149) := by decide +kernel

theorem floatValue_minSample : floatValue 0xC7000000#32 = .fin true (32768 * 2 ^ 149) := by decide +kernel

section
variable {neg : Bool} {mag bound unit : Nat} (hu : 0 < unit) (hb : 0 < bound)
include hu hb

/-- Truncation keeps a value on its side of a positive whole bound. -/
theorem bound_le_trunc_iff :
    signedUnits false (bound * unit) ≤ signedUnits neg mag ↔ (bound : Int) ≤ signedUnits neg (mag / unit) := by
  cases neg with
  | false =>
    simp only [signedUnits, Bool.false_eq_true, if_false]
    exact_mod_cast (Nat.le_div_iff_mul_le hu).symm
  | true =>
    have hpos := Nat.mul_pos hb hu
    generalize mag / unit = q
    simp only [signedUnits, if_true, Bool.false_eq_true, if_false]
    omega

/-- Truncation keeps a value on its side of a negative whole bound. -/
theorem trunc_le_bound_iff :
    signedUnits neg mag ≤ signedUnits true (bound * unit) ↔ signedUnits neg (mag / unit) ≤ -(bound : Int) := by
  have hmirror := bound_le_trunc_iff (neg := !neg) (mag := mag) hu hb
  rw [signedUnits_not, signedUnits_not] at hmirror
  rw [← Bool.not_false, signedUnits_not]
  omega

end

section
variable {x : Word} {neg : Bool} {mag : Nat}

theorem fTrunc_of_fin (hx : floatValue x = .fin neg mag) : fTrunc x = signedUnits neg (mag / 2 ^ 149) := by
  rw [fTrunc, hx]

theorem maxSample_le_iff (hx : floatValue x = .fin neg mag) : fLe 0x46FFFE00#32 x = true ↔ 32767 ≤ fTrunc x := by
  rw [fLe_fin floatValue_maxSample hx, decide_eq_true_iff, fTrunc_of_fin hx]
  exact bound_le_trunc_iff (Nat.two_pow_pos _) (by decide)

theorem le_minSample_iff (hx : floatValue x = .fin neg mag) : fLe x 0xC7000000#32 = true ↔ fTrunc x ≤ -32768 := by
  rw [fLe_fin hx floatValue_minSample, decide_eq_true_iff, fTrunc_of_fin hx]
  exact trunc_le_bound_iff (Nat.two_pow_pos _) (by decide)

end

theorem toS16_of_above {x : Word} (h : fLe 0x46FFFE00#32 (fMul x 0x46FFFE00#32) = true) : toS16 x = 32767 := if_pos h

theorem toS16_of_below {x : Word} (h : fLe 0x46FFFE00#32 (fMul x 0x46FFFE00#32) = false)
    (h' : fLe (fMul x 0x46FFFE00#32) 0xC7000000#32 = true) : toS16 x = 0x8000 := by
  simp [toS16, h, h']

theorem toS16_of_between {x : Word} (h : fLe 0x46FFFE00#32 (fMul x 0x46FFFE00#32) = false)
    (h' : fLe (fMul x 0x46FFFE00#32) 0xC7000000#32 = false) :
    toS16 x = BitVec.ofInt 16 (fTrunc (fMul x 0x46FFFE00#32)) := by
  simp [toS16, h, h']

theorem toS16_of_finite {x : Word} (hy : fFinite (fMul x 0x46FFFE00#32) = true) :
    (toS16 x).toInt = max (-32768) (min 32767 (fTrunc (fMul x 0x46FFFE00#32))) := by
  obtain ⟨neg, mag, hy⟩ := fFinite_iff.mp hy
  have hmax := maxSample_le_iff hy
  have hmin := le_minSample_iff hy
  cases habove : fLe 0x46FFFE00#32 (fMul x 0x46FFFE00#32) with
  | true =>
    have hclamp : (32767 : BitVec 16).toInt = 32767 := by decide
    rw [toS16_of_above habove]
    have := hmax.mp habove
    omega
  | false =>
    cases hbelow : fLe (fMul x 0x46FFFE00#32) 0xC7000000#32 with
    | true =>
      have hclamp : (0x8000 : BitVec 16).toInt = -32768 := by decide
      rw [toS16_of_below habove hbelow]
      have := hmin.mp hbelow
      omega
    | false =>
      simp only [habove, hbelow, Bool.false_eq_true, false_iff, not_le] at hmax hmin
      rw [toS16_of_between habove hbelow, BitVec.toInt_ofInt, Int.bmod_eq_of_le (by omega) (by omega)]
      omega

/-- Settles O44: a product that overflows is an infinity, beyond both bounds. -/
theorem sampleConversionSaturates : Obligations.SampleConversionSaturates := by
  intro x _
  refine ⟨toS16_of_finite, fun hinf => toS16_of_above (congrArg _ hinf), fun hinf => ?_⟩
  rw [toS16_of_below (congrArg _ hinf) (congrArg (fLe · 0xC7000000#32) hinf)]
  decide

end Sys2Proof.Machine
end

section
/-! The pull of a whole engine (41_render.md R57, R61): its next state, its frame, and the elapsed counts. -/

namespace Sys2Proof.Machine

/-! The next state of a pull. -/

section
variable {s : State} {g : Settings}

/-- The output stage: the panned sum, or an error where one side of it is not finite. -/
theorem outputStage_of_finite {a : State} {acc l r : Word} (hlr : panSplit (fMul acc a.vol.value) a.pan.value = (l, r))
    (hfin : fFinite l = true ∧ fFinite r = true) :
    outputStage s a acc = .next (a.emit (.frame l r (toS16 l) (toS16 r))) :=
  outputStage_eq_next.mpr ⟨l, r, hlr.symm, .inl ⟨hfin.1, hfin.2, rfl⟩⟩

theorem outputStage_of_strict {a : State} {acc l r : Word}
    (hlr : panSplit (fMul acc a.vol.value) a.pan.value = (l, r)) (hfin : ¬(fFinite l = true ∧ fFinite r = true))
    (hstrict : s.params.strict = true) :
    outputStage s a acc = .next { s with errNumeric := true, mode := .faulted, faultCause := 3 } :=
  outputStage_eq_next.mpr
    ⟨l, r, hlr.symm, .inr ⟨by simpa using hfin, numericError_eq_next.mpr (.inl ⟨hstrict, rfl⟩)⟩⟩

theorem outputStage_of_hardened {a : State} {acc l r : Word}
    (hlr : panSplit (fMul acc a.vol.value) a.pan.value = (l, r)) (hfin : ¬(fFinite l = true ∧ fFinite r = true))
    (hstrict : s.params.strict = false) :
    outputStage s a acc = .next { a with errNumeric := true, observed := a.observed ++ [.frame 0 0 0 0] } :=
  outputStage_eq_next.mpr
    ⟨l, r, hlr.symm, .inr ⟨by simpa using hfin, numericError_eq_next.mpr (.inr ⟨hstrict, rfl⟩)⟩⟩

variable (h : s.ready g)
include h

theorem execPull_of_render {vs : Vector Voice 32} {acc : Word}
    (hrender : renderSlots Config.numerics s.params g slots s.voices 0#32 = .ok (vs, acc)) :
    execPull s = outputStage s (pulledState g vs s) acc := by
  rw [execPull, pullWith, configuredOp_of_ready h, hrender]

/-- A pull whose voices are sampled without a fault hands the output stage the voices their samples leave and the sum of
the samples. -/
theorem execPull_of_ok {f : Slot → Voice × Word}
    (hf : ∀ i, voiceSample Config.numerics s.params g (s.voice i) = .ok (f i)) :
    execPull s =
      outputStage s (pulledState g (Vector.ofFn fun i => (f i).1) s) (slots.foldl (fun a i => fAdd a (f i).2) 0) := by
  obtain ⟨vs, hrender, hvs, -⟩ := renderSlots_of_ok (acc := 0#32) slots_nodup fun i _ => hf i
  have hvoices : vs = Vector.ofFn fun i => (f i).1 := by
    ext1 j hj
    rw [Vector.getElem_ofFn]
    exact hvs ⟨j, hj⟩ (mem_slots _)
  exact hvoices ▸ execPull_of_render h hrender

/-- A pull of which some voice's sample raises a fault. -/
theorem execPull_of_error {i : Slot} {c : Cause}
    (hc : voiceSample Config.numerics s.params g (s.voice i) = .error c) :
    execPull s = .next (s.takeFault .envParam) := by
  obtain ⟨c', hrender⟩ := renderSlots_of_error (acc := 0#32) slots_nodup (mem_slots i) hc
  have hcause := renderSlots_error hrender
  subst hcause
  exact pullWith_eq_next.mpr ⟨h.1, .inr ⟨g, h.2, .inl ⟨_, hrender, rfl⟩⟩⟩

end

theorem pulledState_ofFn (g : Settings) (s : State) (f : Slot → Voice) :
    pulledState g (Vector.ofFn f) s =
      { s with
        voices := Vector.ofFn fun i => tickElapsed (f i)
        vol := rampPull s.vol g.volUp g.volDown
        pan := rampPull s.pan g.panUp g.panDown } := by
  rw [pulledState, Vector.map_ofFn]
  rfl

/-- Settles O37, one lemma for each thing the output stage can do, and one for a faulting sample. -/
theorem pullAdvancesEveryVoice : Obligations.PullAdvancesEveryVoice := by
  refine ⟨fun s g f h hf => ?_, fun s g h ⟨i, c, hc⟩ => execPull_of_error h hc⟩
  refine (execPull_of_ok h hf).trans ?_
  rw [pulledState_ofFn]
  dsimp only
  split_ifs with hfin hstrict
  · exact outputStage_of_finite rfl hfin
  · exact outputStage_of_strict rfl hfin hstrict
  · exact outputStage_of_hardened rfl hfin (Bool.eq_false_iff.mpr hstrict)

/-! What a pull that ends in RUN leaves. -/

section
variable {s t : State}

/-- A pull that ends in RUN leaves the pulled state, but for the flag and the output. -/
theorem execPull_run (hs : execPull s = .next t) (hrun : t.mode = .run) :
    ∃ g vs acc flag out, s.cfg.settings = some g ∧
      renderSlots Config.numerics s.params g slots s.voices 0#32 = .ok (vs, acc) ∧
      t = { pulledState g vs s with errNumeric := flag, observed := out } := by
  obtain ⟨-, ⟨-, rfl⟩ | ⟨g, hg, ⟨c, -, rfl⟩ | ⟨vs, acc, hrender, hout⟩⟩⟩ := pullWith_eq_next.mp hs
  · cases hrun
  · simp at hrun
  · obtain ⟨l, r, -, ⟨-, -, rfl⟩ | ⟨-, herror⟩⟩ := outputStage_eq_next.mp hout
    · exact ⟨g, vs, acc, _, _, hg, hrender, rfl⟩
    · obtain ⟨-, rfl⟩ | ⟨-, rfl⟩ := numericError_eq_next.mp herror
      · simp at hrun
      · exact ⟨g, vs, acc, _, _, hg, hrender, rfl⟩

/-- Each voice after a pull that ends in RUN: its own sample, and a tick of its counter. -/
theorem voice_of_execPull (hs : execPull s = .next t) (hrun : t.mode = .run) :
    ∃ g, s.cfg.settings = some g ∧ ∀ i, ∃ v y,
      voiceSample Config.numerics s.params g (s.voice i) = .ok (v, y) ∧ t.voice i = tickElapsed v := by
  obtain ⟨g, vs, acc, flag, out, hg, hrender, rfl⟩ := execPull_run hs hrun
  refine ⟨g, hg, fun i => ?_⟩
  obtain ⟨y, hy⟩ := render_slot hrender i
  exact ⟨_, y, hy, State.voice_pulledState g vs s i⟩

end

/-- Settles O40: the engine's part from the pulled state, each voice's from its own sample. -/
theorem pullFrame : Obligations.PullFrame := by
  intro s t g h hs hrun
  constructor
  · obtain ⟨g', vs, acc, flag, out, -, -, rfl⟩ := execPull_run hs hrun
    simp
  · intro i
    obtain ⟨g', hg, hvoice⟩ := voice_of_execPull hs hrun
    obtain rfl : g = g' := Option.some_inj.mp (h.2.symm.trans hg)
    obtain ⟨v, y, hv, ht⟩ := hvoice i
    obtain ⟨hkey, hvel, -, hinc, hoff, hbiquad, hsvf⟩ := voiceSample_frame hv
    rw [ht]
    exact ⟨hkey, hvel, hinc, fun henv => congrArg tickElapsed (hoff henv).1, hbiquad, hsvf⟩

/-! Elapsed counts (41_render.md R61). -/

theorem elapsed_of_execPull {s t : State} (hs : execPull s = .next t) (hrun : t.mode = .run) (i : Slot) :
    (t.voice i).elapsed.toNat = min ((s.voice i).elapsed.toNat + 1) 0xFFFFFFFF := by
  obtain ⟨g, -, hvoice⟩ := voice_of_execPull hs hrun
  obtain ⟨v, y, hv, ht⟩ := hvoice i
  obtain ⟨-, -, helapsed, -⟩ := voiceSample_frame hv
  rw [ht, tickElapsed_elapsed_toNat, helapsed]

theorem afterPulls_succ {k : Nat} {s t : State} (h : afterPulls (k + 1) s = some t) :
    ∃ u, execPull s = .next u ∧ u.mode = .run ∧ afterPulls k u = some t := by
  rw [afterPulls] at h
  split at h
  next u hu =>
    split at h
    next hrun => exact ⟨u, hu, hrun, h⟩
    next => cases h
  next => cases h
  next => cases h

theorem elapsed_of_afterPulls (k : Nat) : ∀ {s t : State}, afterPulls k s = some t → ∀ i,
    (t.voice i).elapsed.toNat = min ((s.voice i).elapsed.toNat + k) 0xFFFFFFFF := by
  induction k with
  | zero =>
    intro s t h i
    cases h
    have := (s.voice i).elapsed.isLt
    omega
  | succ k ih =>
    intro s t h i
    obtain ⟨u, hu, hrun, hrest⟩ := afterPulls_succ h
    rw [ih hrest i, elapsed_of_execPull hu hrun i]
    omega

theorem elapsed_of_noteOn {s t : State} {g : Settings} {n : Numerics} {note vel pk : BitVec 7} (h : s.ready g)
    (hp : pianoKey note = some pk) (ht : noteOn n note vel s = .next t) (hrun : t.mode = .run) :
    (t.voice (selectSlot s pk)).elapsed = 0 ∧
      ∀ i, i ≠ selectSlot s pk → (t.voice i).elapsed = (s.voice i).elapsed := by
  cases hv : keyOnVoice n s.params g pk vel (s.voice (selectSlot s pk)) with
  | error c =>
    rw [noteOn_of_error h hp hv, next_inj] at ht
    simp [← ht] at hrun
  | ok v =>
    rw [noteOn_of_ok h hp hv, next_inj] at ht
    subst ht
    obtain ⟨-, -, helapsed⟩ := keyOnVoice_written hv
    exact ⟨by rw [State.voice_setVoice_same, helapsed], fun i hi => by rw [State.voice_setVoice_other hi]⟩

/-- `EnvKeyOff` writes no elapsed count, and no other operation but NOTE_ON, PULL and RESET writes a voice. -/
theorem elapsed_of_other {i : Instr} {s t : State} (h : exec i s = .next t) (hpull : i ≠ .pull) (hreset : i ≠ .reset)
    (hon : ∀ ch d e, i ≠ .noteOn ch d e) (j : Slot) : (t.voice j).elapsed = (s.voice j).elapsed := by
  cases exec_next h with
  | noteOff hm g hg note pk v k hp hb hv ht =>
    obtain ⟨e, m, rfl⟩ := envKeyOff_frame hv
    subst ht
    by_cases hj : j = k
    · rw [hj, State.voice_setVoice_same]
    · rw [State.voice_setVoice_other hj]
  | noteOn hm g hg note vel pk v hp hv ht hi =>
    obtain ⟨ch, hi⟩ := hi
    exact absurd hi (hon ch note vel)
  | pulled hm g hg vs acc hr l r hl hf ht hi | silenced hm g hg vs acc hr hst ht hi => exact absurd hi hpull
  | reset ht hi => exact absurd hi hreset
  | fault c hm ht | protoLogged hm ht | writeLogged hm ht | readLogged hm ht | same hm ht | vol hm x ht | pan hm x ht
  | program hm x ht | bend hm x ht | wrote hm r d a ha hl ht | cleared hm d a ha ht | read w ht =>
    rw [State.voice_congr (s := s) (by simp [ht])]

/-- Settles O39, one lemma for each clause. -/
theorem elapsedCountsPulls : Obligations.ElapsedCountsPulls :=
  ⟨fun k _ _ h => elapsed_of_afterPulls k h,
    fun _ _ _ _ _ _ h hlow hhigh => elapsed_of_noteOn h (pianoKey_some hlow hhigh),
    fun _ _ _ h hpull hreset hon => elapsed_of_other h hpull hreset hon⟩

end Sys2Proof.Machine
end

section
/-! The silent pull (41_render.md R57): an unsigned volume and a pan in [+0.0, 1.0] keep the sum +0.0. -/

namespace Sys2Proof.Machine

section
variable {x : Word}

/-- A finite value with its sign bit clear. -/
theorem floatValue_of_unsigned (hfin : fFinite x = true) (hsign : x.msb = false) :
    ∃ m, floatValue x = .fin false m := by
  obtain ⟨neg, mag, hx⟩ := fFinite_iff.mp hfin
  obtain ⟨bits, hbits, rfl, -⟩ := floatValue_fin hx
  rw [floatWord_msb (Nat.lt_trans hbits (by decide))] at hsign
  exact ⟨mag, hsign ▸ hx⟩

theorem fMul_zero_left (hfin : fFinite x = true) (hsign : x.msb = false) : fMul 0 x = 0 := by
  obtain ⟨m, hx⟩ := floatValue_of_unsigned hfin hsign
  have hzero : floatValue 0 = .fin false 0 := rfl
  rw [fMul_fin hzero hx, Nat.zero_mul, roundWord, roundMagnitude_zero (Nat.two_pow_pos _)]
  rfl

/-- A value at most 1.0 with its sign bit clear is finite. -/
theorem fFinite_of_le_one (hsign : x.msb = false) (hle : fLe x 0x3F800000#32 = true) : fFinite x = true := by
  cases hx : floatValue x with
  | nan => exact absurd hx (ne_nan_of_fLe hle).1
  | fin neg mag => exact fFinite_iff.mpr ⟨neg, mag, hx⟩
  | inf neg =>
    obtain rfl := floatValue_inf hx
    cases neg with
    | false => exact absurd hle (by decide +kernel)
    | true => exact absurd hsign (by decide)

/-- A sum that is not negative, of operands that are not both negative zeros. -/
theorem addFinite_of_nonneg {s t : Bool} {m n k : Nat} (hst : (s && t) = false)
    (hsum : signedUnits s m + signedUnits t n = (k : Int)) : addFinite s m t n = roundWord false k 1 := by
  rcases Nat.eq_zero_or_pos k with rfl | hk
  · rw [addFinite_of_sum_zero hsum, hst, roundWord, roundMagnitude_zero Nat.one_pos]
    rfl
  · simp only [addFinite, hsum]
    rw [if_neg (by omega), decide_eq_false (by omega), Int.natAbs_natCast]

/-- `1.0 - p` is finite and has its sign bit clear for `p` in [+0.0, 1.0]. -/
theorem one_sub_unsigned (hsign : x.msb = false) (hle : fLe x 0x3F800000#32 = true) :
    fFinite (fSub 0x3F800000#32 x) = true ∧ (fSub 0x3F800000#32 x).msb = false := by
  obtain ⟨m, hx⟩ := floatValue_of_unsigned (fFinite_of_le_one hsign hle) hsign
  rw [fLe_fin hx floatValue_one, decide_eq_true_iff] at hle
  have hm : m ≤ 2 ^ 149 := by simpa [signedUnits] using hle
  have hsub : fSub 0x3F800000#32 x = roundWord false (2 ^ 149 - m) 1 := by
    have hsum : signedUnits false (2 ^ 149) + signedUnits true m = ((2 ^ 149 - m : Nat) : Int) := by
      simp only [signedUnits, if_true, Bool.false_eq_true, if_false]
      omega
    rw [fSub_fin floatValue_one hx]
    exact addFinite_of_nonneg rfl hsum
  have hunsigned : (fSub 0x3F800000#32 x).msb = false := by rw [hsub, roundWord_msb]
  refine ⟨fFinite_of_le_one hunsigned ?_, hunsigned⟩
  rw [hsub, one_eq_roundWord]
  exact fLe_roundWord Nat.one_pos Nat.one_pos (by omega)

end

/-- The sum of samples that are all +0.0. -/
theorem foldl_fAdd_zero : slots.foldl (fun a _ => fAdd a 0) 0 = 0 :=
  List.foldl_fixed' (fun _ => by decide) slots

theorem toS16_zero : toS16 0 = 0 := by decide +kernel

/-- Settles O38: each voice that is off stays and answers +0.0. -/
theorem silentPullOutputsZero : Obligations.SilentPullOutputsZero := by
  intro s g h hoff hvol hvolsign hpansign hpan
  have hvoices : Vector.ofFn s.voice = s.voices := Vector.ext fun i hi => Vector.getElem_ofFn hi
  have hpull := execPull_of_ok h fun i => voiceSample_of_off (hoff i)
  dsimp only at hpull
  rw [foldl_fAdd_zero, hvoices] at hpull
  obtain ⟨hleft, hleftsign⟩ := one_sub_unsigned hpansign hpan
  have hsplit :
      panSplit (fMul 0 (pulledState g s.voices s).vol.value) (pulledState g s.voices s).pan.value = (0, 0) := by
    rw [panSplit, State.pulledState_vol, State.pulledState_pan, fMul_zero_left hvol hvolsign,
      fMul_zero_left hleft hleftsign, fMul_zero_left (fFinite_of_le_one hpansign hpan) hpansign]
  rw [outputStage_of_finite hsplit (by decide), toS16_zero] at hpull
  exact hpull

end Sys2Proof.Machine
end

section
/-! The envelope's transitions (42_envelope.md R62) and the multiplier of its ramps (R63). -/

namespace Sys2Proof.Machine

/-! The multiplier. -/

/-- Settles O51: the multiplier of the statement is `rampFactor`, and its check is `multValid`. -/
theorem rampMultiplierIsPositive : Obligations.RampMultiplierIsPositive := by
  intro n p start stop time
  refine ⟨fun m hok => ?_, fun c herror => ?_, fun m hm hfin hpos => rampMult_ok hm ⟨hfin, hpos⟩⟩
  · obtain ⟨hvalid, hformula⟩ := rampMult_eq_ok hok
    obtain ⟨hfin, hpos⟩ := finiteAbove_iff.mp hvalid
    exact ⟨hfin, hpos, hformula⟩
  · by_cases hvalid : multValid (rampFactor n p start stop time)
    · rw [rampMult_of_valid hvalid] at herror
      cases herror
    · rw [rampMult_of_invalid hvalid] at herror
      cases herror
      rfl

/-! The moves of the envelope procedures. -/

theorem envMove_self (p : Params) (e : EnvEvent) (a : EnvState) : envMove p e a a = true := by
  cases e <;> simp [envMove]

section
variable {n : Numerics} {p : Params} {g : Settings} {v v' : Voice}

/-- `EnvKeyOn` starts the attack of a voice that is off, or of any voice under RESTART. -/
theorem envKeyOn_move (h : envKeyOn n p g v = .ok v') : envMove p .keyOn v.env v'.env = true := by
  by_cases hstart : v.env = .off ∨ p.retrigger = .restart
  · by_cases hgood : fLt g.peak g.sustain = false ∧ multValid (rampFactor n p Config.envFloor g.peak g.attackT)
    · obtain ⟨horder, hvalid⟩ := hgood
      rw [envKeyOn_of_attack hstart horder hvalid] at h
      cases h
      simpa [envMove] using Or.inr hstart
    · rw [envKeyOn_of_fault hstart hgood] at h
      cases h
  · obtain ⟨hoff, hrestart⟩ := not_or.mp hstart
    have hhold : p.retrigger = .hold := by
      cases hr : p.retrigger with
      | hold => rfl
      | restart => exact absurd hr hrestart
    rw [envKeyOn_of_sounding hoff hhold] at h
    cases h
    exact envMove_self p .keyOn v.env

/-- A note-on writes to the voice nothing that `EnvKeyOn` reads of its envelope. -/
theorem keyOnVoice_move {pk vel : BitVec 7} (h : keyOnVoice n p g pk vel v = .ok v') :
    envMove p .keyOn v.env v'.env = true :=
  envKeyOn_move (v := struckVoice n p pk vel v) h

/-- `EnvKeyOff` releases a voice in attack, decay or sustain. -/
theorem envKeyOff_move (h : envKeyOff n p g v = .ok v') : envMove p .keyOff v.env v'.env = true := by
  by_cases hheld : v.env = .attack ∨ v.env = .decay ∨ v.env = .sustain
  · by_cases hvalid : multValid (rampFactor n p g.sustain Config.envFloor g.releaseT)
    · rw [envKeyOff_of_release hheld hvalid] at h
      cases h
      simpa [envMove, or_assoc] using Or.inr hheld
    · rw [envKeyOff_of_fault hheld hvalid] at h
      cases h
  · have hsilent : v.env = .release ∨ v.env = .off := by
      cases henv : v.env <;> simp [henv] at hheld ⊢
    rw [envKeyOff_of_silent hsilent] at h
    cases h
    exact envMove_self p .keyOff v.env

theorem envAdvance_of_off (henv : v.env = .off) : envAdvance n p g v = .ok v := by
  simp [envAdvance, henv]

/-- The envelope step goes from one state to the next of attack, decay, sustain, and of release, off. -/
theorem envAdvance_move (h : envAdvance n p g v = .ok v') : envMove p .envStep v.env v'.env = true := by
  cases henv : v.env with
  | off =>
    rw [envAdvance_of_off henv] at h
    cases h
    simp [envMove, henv]
  | attack =>
    cases hpeak : fLe g.peak (fMul v.level v.mult) with
    | false =>
      rw [envAdvance_of_attack henv hpeak] at h
      cases h
      simp [envMove, henv]
    | true =>
      rw [envAdvance_of_peak henv hpeak] at h
      simp [envMove, attackEnd_env h]
  | decay =>
    rw [envAdvance_of_decay henv] at h
    cases h
    split_ifs <;> simp [envMove, henv]
  | sustain =>
    rw [envAdvance_of_sustain henv] at h
    cases h
    simp [envMove, henv]
  | release =>
    rw [envAdvance_of_release henv] at h
    cases h
    split_ifs <;> simp [envMove, henv]

/-- The oscillator and the filter leave the envelope's state to its step. -/
theorem voiceSample_move {y : Word} (h : voiceSample n p g v = .ok (v', y)) :
    envMove p .envStep v.env v'.env = true := by
  by_cases hoff : v.env = .off
  · rw [voiceSample_of_off hoff] at h
    cases h
    exact envMove_self p .envStep v.env
  · rw [voiceSample_of_sounding hoff] at h
    obtain ⟨hadvance, -⟩ := envStep_eq_ok h
    obtain ⟨henv, -⟩ := filterStep_envelope n p g (oscAdvance v) (oscOut n g.ctrl.waveform v.phase)
    have hmove := envAdvance_move hadvance
    rwa [henv] at hmove

end

/-! The moves of the operations. -/

/-- One voice replaced by a move of its envelope: every other voice stays. -/
theorem envMove_setVoice {p : Params} {e : EnvEvent} {s : State} {i : Slot} {v : Voice}
    (h : envMove p e (s.voice i).env v.env = true) (k : Slot) :
    envMove p e (s.voice k).env ((s.setVoice i v).voice k).env = true := by
  by_cases hk : k = i
  · rwa [hk, State.voice_setVoice_same]
  · rw [State.voice_setVoice_other hk]
    exact envMove_self p e _

theorem envMove_pulledState {n : Numerics} {g : Settings} {s : State} {vs : Vector Voice 32} {acc : Word}
    (h : renderSlots n s.params g slots s.voices 0#32 = .ok (vs, acc)) (k : Slot) :
    envMove s.params .envStep (s.voice k).env ((pulledState g vs s).voice k).env = true := by
  obtain ⟨y, hy⟩ := render_slot h k
  rw [State.voice_pulledState, tickElapsed_env]
  exact voiceSample_move hy

/-- What the table of 42_envelope.md R62 lets an operation do to the envelope state of a voice. -/
def envelopeAllowed (p : Params) (i : Instr) (a b : EnvState) : Prop :=
  match i with
  | .noteOn _ _ _ => envMove p .keyOn a b = true
  | .noteOff _ _ _ => envMove p .keyOff a b = true
  | .noteOnVel0 _ _ => envMove p .keyOff a b = true
  | .pull => envMove p .envStep a b = true
  | .reset => b = .off
  | _ => b = a

/-- Staying put is allowed to every operation but RESET. -/
theorem envelopeAllowed_self {i : Instr} (hi : i ≠ .reset) (p : Params) (a : EnvState) : envelopeAllowed p i a a := by
  cases i with
  | reset => exact absurd rfl hi
  | noteOn | noteOff | noteOnVel0 | pull => exact envMove_self p _ a
  | _ => rfl

theorem envelopeAllowed_of_voices {i : Instr} {s t : State} (hi : i ≠ .reset) (h : t.voices = s.voices) (k : Slot) :
    envelopeAllowed s.params i (s.voice k).env (t.voice k).env := by
  rw [State.voice_congr h k]
  exact envelopeAllowed_self hi s.params _

theorem exec_envelopeAllowed {i : Instr} {s t : State} (h : exec i s = .next t) (hi : i ≠ .reset) (k : Slot) :
    envelopeAllowed s.params i (s.voice k).env (t.voice k).env := by
  cases exec_next h with
  | reset ht hreset => exact absurd hreset hi
  | noteOn hm g hg note vel pk v hp hv ht howner =>
    obtain ⟨ch, rfl⟩ := howner
    exact ht ▸ envMove_setVoice (keyOnVoice_move hv) k
  | noteOff hm g hg note pk v j hp hb hv ht howner =>
    have hmove := envMove_setVoice (envKeyOff_move hv) k
    obtain ⟨ch, e, rfl⟩ | ⟨ch, rfl⟩ := howner <;> exact ht ▸ hmove
  | pulled hm g hg vs acc hr l r hl hf ht hpull | silenced hm g hg vs acc hr hst ht hpull =>
    have hvoice : t.voice k = (pulledState g vs s).voice k := State.voice_congr (by simp [ht]) k
    rw [hvoice, hpull]
    exact envMove_pulledState hr k
  | fault c hm ht | protoLogged hm ht | writeLogged hm ht | readLogged hm ht | same hm ht | vol hm x ht | pan hm x ht
  | program hm x ht | bend hm x ht | wrote hm r d a ha hl ht | cleared hm d a ha ht | read w ht =>
    exact envelopeAllowed_of_voices hi (by simp [ht]) k

/-- Settles O50: RESET silences every voice, and any other operation does what `envelopeAllowed` says. -/
theorem envelopeTransitionsAreTheTable : Obligations.EnvelopeTransitionsAreTheTable := by
  intro i s t k h
  by_cases hi : i = .reset
  · subst hi
    cases h
    exact congrArg Voice.env (State.voice_reconstructed s k)
  · exact exec_envelopeAllowed h hi k

end Sys2Proof.Machine
end

section
/-! The synthesis primitives (43_primitives.md): waveforms, the phase, parameter ramps and filters. -/

namespace Sys2Proof.Machine

/-! Rounding never passes a representable value: a finite value beyond one would be farther than it from the exact
result. -/

section
variable {x y z : Word} {s t : Bool} {m n : Nat}

theorem fLe_fin_iff (hx : floatValue x = .fin s m) (hy : floatValue y = .fin t n) :
    fLe x y = true ↔ signedUnits s m ≤ signedUnits t n := by
  rw [fLe_fin hx hy, decide_eq_true_iff]

/-- A finite magnitude is below the overflow bound, since it is its own rounding. -/
theorem mag_lt_overflowUnits (hx : floatValue x = .fin s m) : m < overflowUnits := by
  obtain ⟨bits, hbits, -, rfl⟩ := floatValue_fin hx
  have hround := roundMagnitude_exact Nat.one_pos hbits
  rw [← Nat.mul_one overflowUnits, ← Nat.mul_one (magnitude bits), ← roundMagnitude_lt_infinity_iff Nat.one_pos]
  omega

theorem abs_signedUnits_mul_lt (hx : floatValue x = .fin s m) {den : Nat} (hd : 0 < den) :
    |signedUnits s m * den| < ((overflowUnits * den : Nat) : Int) := by
  rw [abs_mul, abs_signedUnits, Nat.abs_cast]
  exact_mod_cast Nat.mul_lt_mul_of_pos_right (mag_lt_overflowUnits hx) hd

theorem roundedNearest_side {num : Int} {den : Nat} (h : roundedNearest z num den) (hd : 0 < den)
    (hy : floatValue y = .fin t n) :
    (num ≤ signedUnits t n * den → fLe z y = true) ∧ (signedUnits t n * den ≤ num → fLe y z = true) := by
  have hbound := abs_lt.mp (abs_signedUnits_mul_lt hy hd)
  unfold roundedNearest at h
  split at h
  next =>
    obtain ⟨s, m, hz, hnearest⟩ := h
    have hnear := (hnearest y t n hy).1
    rw [Int.abs_eq_natAbs, Int.abs_eq_natAbs] at hnear
    rw [fLe_fin_iff hz hy, fLe_fin_iff hy hz]
    constructor <;> refine fun hle => le_of_not_gt fun hlt => ?_
    all_goals
      have hfar := mul_lt_mul_of_pos_right hlt (Int.natCast_pos.mpr hd)
      omega
  next =>
    obtain ⟨hlow, hhigh⟩ := signedUnits_lt_beyondFinite hy
    constructor <;> intro hle
    · rw [decide_eq_true (show num < 0 by omega)] at h
      exact fLe_iff.mpr ⟨-beyondFinite, _, by rw [h]; rfl, by rw [hy]; rfl, hlow.le⟩
    · rw [decide_eq_false (show ¬ num < 0 by omega)] at h
      exact fLe_iff.mpr ⟨_, beyondFinite, by rw [hy]; rfl, by rw [h]; rfl, hhigh.le⟩

theorem roundedNearest_fLe {num : Int} {den : Nat} (h : roundedNearest z num den) (hd : 0 < den)
    (hy : floatValue y = .fin t n) (hle : num ≤ signedUnits t n * den) : fLe z y = true :=
  (roundedNearest_side h hd hy).1 hle

theorem fLe_roundedNearest {num : Int} {den : Nat} (h : roundedNearest z num den) (hd : 0 < den)
    (hy : floatValue y = .fin t n) (hle : signedUnits t n * den ≤ num) : fLe y z = true :=
  (roundedNearest_side h hd hy).2 hle

theorem roundedNearest_finite {num : Int} {den : Nat} (h : roundedNearest z num den)
    (hlt : num.natAbs < overflowUnits * den) : fFinite z = true := by
  rw [roundedNearest, if_pos hlt] at h
  obtain ⟨s, m, hz, -⟩ := h
  exact fFinite_iff.mpr ⟨s, m, hz⟩

theorem fAdd_roundedNearest (hx : floatValue x = .fin s m) (hy : floatValue y = .fin t n) :
    roundedNearest (fAdd x y) (signedUnits s m + signedUnits t n) 1 := by
  obtain ⟨hadd, -⟩ := arithmeticRoundsToNearestEven x y s t m n hx hy
  exact hadd

theorem fSub_roundedNearest (hx : floatValue x = .fin s m) (hy : floatValue y = .fin t n) :
    roundedNearest (fSub x y) (signedUnits s m - signedUnits t n) 1 := by
  obtain ⟨-, hsub, -⟩ := arithmeticRoundsToNearestEven x y s t m n hx hy
  exact hsub

theorem fMul_roundedNearest (hx : floatValue x = .fin s m) (hy : floatValue y = .fin t n) :
    roundedNearest (fMul x y) (signedUnits s m * signedUnits t n) (2 ^ 149) := by
  obtain ⟨-, -, hmul, -⟩ := arithmeticRoundsToNearestEven x y s t m n hx hy
  exact hmul

theorem signedUnits_false (m : Nat) : signedUnits false m = m := rfl

theorem floatValue_zero : floatValue 0#32 = .fin false 0 := rfl

end

/-! Order. -/

section
variable {x y z : Word}

theorem fLt_of_not_fLe (hx : floatValue x ≠ .nan) (hy : floatValue y ≠ .nan) (h : ¬ fLe y x = true) :
    fLt x y = true := by
  obtain ⟨a, hx⟩ := exists_position hx
  obtain ⟨b, hy⟩ := exists_position hy
  exact fLt_iff.mpr ⟨a, b, hx, hy, not_le.mp fun hle => h (fLe_iff.mpr ⟨b, a, hy, hx, hle⟩)⟩

theorem fLt_of_fLe_of_fLt (h : fLe x y = true) (h' : fLt y z = true) : fLt x z = true := by
  obtain ⟨a, b, hx, hy, hab⟩ := fLe_iff.mp h
  obtain ⟨b', c, hy', hz, hbc⟩ := fLt_iff.mp h'
  rw [hy, Option.some_inj] at hy'
  exact fLt_iff.mpr ⟨a, c, hx, hz, by omega⟩

theorem fLt_asymm (h : fLt x y = true) : fLt y x = false :=
  Bool.of_not_eq_true fun h' => absurd (fLt_fLe h') (by simp [fLt_not_fLe h])

end

/-! Waveforms (43_primitives.md R70). -/

/-- Settles O45: the formulas are those of `oscOut`, and each listed value is that of its formula. -/
theorem waveformsAtListedPhases : Obligations.WaveformsAtListedPhases := by
  intro n
  have hquarter : fMul 0x40C90FDB#32 0x3E800000#32 = 0x3FC90FDB#32 := by decide +kernel
  refine ⟨fun ph => ⟨rfl, rfl, rfl, rfl⟩, congrArg n.sin hquarter, ?_⟩
  simp only [oscOut]
  decide +kernel

/-! The phase (43_primitives.md R71). -/

/-- The binary32 values of [0, 1), in units of 2^-149: the largest is 1 - 2^-24. -/
theorem inUnitPhase_iff {x : Word} :
    inUnitPhase x ↔
      ∃ s m, floatValue x = .fin s m ∧ 0 ≤ signedUnits s m ∧ signedUnits s m ≤ (2 ^ 24 - 1) * 2 ^ 125 := by
  constructor
  · rintro ⟨hlow, hhigh⟩
    obtain ⟨s, m, hx⟩ := fFinite_iff.mp (fFinite_of_between (by decide) (by decide) hlow (fLt_fLe hhigh))
    rw [fLe_fin_iff floatValue_zero hx] at hlow
    rw [fLt_fin hx floatValue_one, decide_eq_true_iff] at hhigh
    refine ⟨s, m, hx, hlow, ?_⟩
    obtain ⟨bits, -, -, rfl⟩ := floatValue_fin hx
    cases s with
    | true => simp only [signedUnits, if_true]; omega
    | false =>
      have hone : magnitude 0x3F800000 = 2 ^ 149 := by decide +kernel
      have hlast : magnitude 0x3F7FFFFF = (2 ^ 24 - 1) * 2 ^ 125 := by decide +kernel
      rw [signedUnits_false, signedUnits_false] at hhigh
      rw [signedUnits_false]
      have hbits : bits < 0x3F800000 := magnitude_lt_iff.mp (by omega)
      have hle : magnitude bits ≤ magnitude 0x3F7FFFFF := magnitude_le (Nat.le_sub_one_of_lt hbits)
      omega
  · rintro ⟨s, m, hx, hlow, hhigh⟩
    refine ⟨(fLe_fin_iff floatValue_zero hx).mpr hlow, ?_⟩
    rw [fLt_fin hx floatValue_one, decide_eq_true_iff]
    rw [signedUnits_false]
    omega

/-- A sum of two values in [0, 1) is at most 2 - 2^-23. -/
theorem fAdd_inUnitPhase {x y : Word} (hx : inUnitPhase x) (hy : inUnitPhase y) :
    fLe 0#32 (fAdd x y) = true ∧ fLe (fAdd x y) 0x3FFFFFFF#32 = true := by
  obtain ⟨s, m, hx, hxlow, hxhigh⟩ := inUnitPhase_iff.mp hx
  obtain ⟨t, n, hy, hylow, hyhigh⟩ := inUnitPhase_iff.mp hy
  have hround := fAdd_roundedNearest hx hy
  have hlast : floatValue 0x3FFFFFFF#32 = .fin false ((2 ^ 24 - 1) * 2 ^ 126) := by decide +kernel
  refine ⟨fLe_roundedNearest hround Nat.one_pos floatValue_zero ?_, roundedNearest_fLe hround Nat.one_pos hlast ?_⟩
  · rw [signedUnits_zero]
    omega
  · rw [signedUnits_false]
    omega

/-- Less 1.0, a value from 1.0 to 2 - 2^-23 is in [0, 1). -/
theorem fSub_one_inUnitPhase {x : Word} (hlow : fLe 0x3F800000#32 x = true) (hhigh : fLe x 0x3FFFFFFF#32 = true) :
    inUnitPhase (fSub x 0x3F800000#32) := by
  obtain ⟨s, m, hx⟩ := fFinite_iff.mp (fFinite_of_between (by decide) (by decide) hlow hhigh)
  have hlast : floatValue 0x3FFFFFFF#32 = .fin false ((2 ^ 24 - 1) * 2 ^ 126) := by decide +kernel
  have hlast' : floatValue 0x3F7FFFFE#32 = .fin false ((2 ^ 24 - 2) * 2 ^ 125) := by decide +kernel
  have hround := fSub_roundedNearest hx floatValue_one
  rw [fLe_fin_iff floatValue_one hx, signedUnits_false] at hlow
  rw [fLe_fin_iff hx hlast, signedUnits_false] at hhigh
  refine ⟨fLe_roundedNearest hround Nat.one_pos floatValue_zero ?_,
    fLt_of_fLe_of_fLt (roundedNearest_fLe hround Nat.one_pos hlast' ?_) (by decide +kernel)⟩
  · rw [signedUnits_zero, signedUnits_false]
    omega
  · rw [signedUnits_false, signedUnits_false]
    omega

/-- Settles O46: the sum is taken as it is below 1.0, and less 1.0 from it on. -/
theorem phaseStaysInTheUnitInterval : Obligations.PhaseStaysInTheUnitInterval := by
  intro phase inc hphase hinc
  obtain ⟨hlow, hhigh⟩ := fAdd_inUnitPhase hphase hinc
  unfold advancePhase
  dsimp only
  split
  next hwrap => exact fSub_one_inUnitPhase hwrap hhigh
  next hbelow => exact ⟨hlow, fLt_of_not_fLe (ne_nan_of_fLe hhigh).1 (by decide) hbelow⟩

/-! Parameter ramps (43_primitives.md R72). -/

section
variable {r : Ramp} {up down : Word}

theorem rampPull_of_below (h : fLt r.value r.target = true) :
    rampPull r up down = { value := fSub r.target (fMul (fSub r.target r.value) up), target := r.target } := if_pos h

theorem rampPull_of_above (h : fLt r.target r.value = true) :
    rampPull r up down = { value := fSub r.target (fMul (fSub r.target r.value) down), target := r.target } := by
  simp [rampPull, fLt_asymm h, h]

theorem rampPull_of_atTarget (h : fLt r.value r.target = false) (h' : fLt r.target r.value = false) :
    rampPull r up down = r := by
  simp [rampPull, h, h']

end

section
variable {x y k : Word}

theorem zeroToOne_units (hx : zeroToOne x = true) :
    ∃ s m, floatValue x = .fin s m ∧ 0 ≤ signedUnits s m ∧ signedUnits s m ≤ 2 ^ 149 := by
  obtain ⟨s, m, hfin⟩ := fFinite_iff.mp (zeroToOne_finite hx)
  obtain ⟨hlow, hhigh⟩ := zeroToOne_iff.mp hx
  exact ⟨s, m, hfin, (fLe_fin_iff floatValue_zero hfin).mp hlow, (fLe_fin_iff hfin floatValue_one).mp hhigh⟩

/-- The gap of two values in [0, 1] is finite. -/
theorem fSub_finite_of_zeroToOne (hx : zeroToOne x = true) (hy : zeroToOne y = true) : fFinite (fSub x y) = true := by
  obtain ⟨s, m, hx, hxlow, hxhigh⟩ := zeroToOne_units hx
  obtain ⟨t, n, hy, hylow, hyhigh⟩ := zeroToOne_units hy
  refine roundedNearest_finite (fSub_roundedNearest hx hy) ?_
  have : 2 ^ 149 < overflowUnits * 1 := by decide +kernel
  omega

/-- A multiplier in [0, 1] leaves a finite value finite. -/
theorem fMul_finite_of_zeroToOne (hx : fFinite x = true) (hk : zeroToOne k = true) : fFinite (fMul x k) = true := by
  obtain ⟨s, m, hx⟩ := fFinite_iff.mp hx
  obtain ⟨t, n, hk, hlow, hhigh⟩ := zeroToOne_units hk
  have hn : n ≤ 2 ^ 149 := by
    rw [← signedUnits_natAbs t n]
    omega
  refine roundedNearest_finite (fMul_roundedNearest hx hk) ?_
  rw [Int.natAbs_mul, signedUnits_natAbs, signedUnits_natAbs]
  exact Nat.mul_lt_mul_of_lt_of_le (mag_lt_overflowUnits hx) hn (Nat.two_pow_pos _)

/-- A difference is on the side of zero that the order of its operands says. -/
theorem fSub_side (hx : fFinite x = true) (hy : fFinite y = true) :
    (fLe y x = true → fLe 0#32 (fSub x y) = true) ∧ (fLe x y = true → fLe (fSub x y) 0#32 = true) := by
  obtain ⟨s, m, hx⟩ := fFinite_iff.mp hx
  obtain ⟨t, n, hy⟩ := fFinite_iff.mp hy
  have hround := fSub_roundedNearest hx hy
  rw [fLe_fin_iff hx hy, fLe_fin_iff hy hx]
  refine ⟨fun h => fLe_roundedNearest hround Nat.one_pos floatValue_zero ?_,
    fun h => roundedNearest_fLe hround Nat.one_pos floatValue_zero ?_⟩ <;>
  · rw [signedUnits_zero]
    omega

/-- A multiplier that is not below zero leaves a value on its side of zero. -/
theorem fMul_side (hx : fFinite x = true) (hk : zeroToOne k = true) :
    (fLe 0#32 x = true → fLe 0#32 (fMul x k) = true) ∧ (fLe x 0#32 = true → fLe (fMul x k) 0#32 = true) := by
  obtain ⟨s, m, hx⟩ := fFinite_iff.mp hx
  obtain ⟨t, n, hk, hlow, -⟩ := zeroToOne_units hk
  have hround := fMul_roundedNearest hx hk
  rw [fLe_fin_iff hx floatValue_zero, fLe_fin_iff floatValue_zero hx, signedUnits_zero]
  refine ⟨fun h => fLe_roundedNearest hround (Nat.two_pow_pos _) floatValue_zero ?_,
    fun h => roundedNearest_fLe hround (Nat.two_pow_pos _) floatValue_zero ?_⟩ <;>
  rw [signedUnits_zero, zero_mul]
  · exact mul_nonneg h hlow
  · exact mul_nonpos_of_nonpos_of_nonneg h hlow

/-- Taking away what is not below zero does not pass above the value, nor what is not above zero below it. -/
theorem fSub_self_side (hx : fFinite x = true) (hy : fFinite y = true) :
    (fLe 0#32 y = true → fLe (fSub x y) x = true) ∧ (fLe y 0#32 = true → fLe x (fSub x y) = true) := by
  obtain ⟨s, m, hx⟩ := fFinite_iff.mp hx
  obtain ⟨t, n, hy⟩ := fFinite_iff.mp hy
  have hround := fSub_roundedNearest hx hy
  rw [fLe_fin_iff hy floatValue_zero, fLe_fin_iff floatValue_zero hy, signedUnits_zero]
  exact ⟨fun h => roundedNearest_fLe hround Nat.one_pos hx (by omega),
    fun h => fLe_roundedNearest hround Nat.one_pos hx (by omega)⟩

end

section
variable {v t k : Word} (hv : zeroToOne v = true) (ht : zeroToOne t = true)
include hv ht

/-- The remaining gap, shrunk by a multiplier in [0, 1], does not change sides. -/
theorem rampValue_side (hk : zeroToOne k = true) :
    (fLe v t = true → fLe (fSub t (fMul (fSub t v) k)) t = true) ∧
      (fLe t v = true → fLe t (fSub t (fMul (fSub t v) k)) = true) := by
  have hgap := fSub_finite_of_zeroToOne ht hv
  obtain ⟨hgapUp, hgapDown⟩ := fSub_side (zeroToOne_finite ht) (zeroToOne_finite hv)
  obtain ⟨hshrunkUp, hshrunkDown⟩ := fMul_side hgap hk
  obtain ⟨hup, hdown⟩ := fSub_self_side (zeroToOne_finite ht) (fMul_finite_of_zeroToOne hgap hk)
  exact ⟨fun h => hup (hshrunkUp (hgapUp h)), fun h => hdown (hshrunkDown (hgapDown h))⟩

/-- A multiplier of 0.0 leaves no gap. -/
theorem rampValue_jump :
    fLe (fSub t (fMul (fSub t v) 0#32)) t = true ∧ fLe t (fSub t (fMul (fSub t v) 0#32)) = true := by
  obtain ⟨neg, hzero⟩ := fMul_zero_of_finite (fSub_finite_of_zeroToOne ht hv)
  obtain ⟨hup, hdown⟩ := fSub_self_side (zeroToOne_finite ht) (fFinite_iff.mpr ⟨neg, 0, hzero⟩)
  rw [fLe_fin_iff floatValue_zero hzero, signedUnits_zero, signedUnits_zero] at hup
  rw [fLe_fin_iff hzero floatValue_zero, signedUnits_zero, signedUnits_zero] at hdown
  exact ⟨hup (le_refl 0), hdown (le_refl 0)⟩

end

/-- Settles O47: `rampPull` by the side of the target its value is on, and `rampValue_side` on each. -/
theorem rampNeverPassesItsTarget : Obligations.RampNeverPassesItsTarget := by
  refine ⟨fun r up down => ⟨rampPull_of_below, rampPull_of_above, rampPull_of_atTarget⟩,
    fun r up down hv ht hup hdown => ⟨rampPull_target r up down, fun h => ?_, fun h => ?_, rampPull_of_atTarget,
      fun h hzero => ?_, fun h hzero => ?_⟩⟩
  · rw [rampPull_of_below h]
    exact (rampValue_side hv ht hup).1 (fLt_fLe h)
  · rw [rampPull_of_above h]
    exact (rampValue_side hv ht hdown).2 (fLt_fLe h)
  · rw [rampPull_of_below h, hzero]
    exact rampValue_jump hv ht
  · rw [rampPull_of_above h, hzero]
    exact rampValue_jump hv ht

/-! Filters (43_primitives.md R73, R74, R76). -/

section
variable {n : Numerics} {p : Params} {g : Settings} {v : Voice} {x : Word}

/-- What the state-variable filter answers. -/
def svfAnswer (t : FilterType) (low band high : Word) : Word :=
  match t with
  | .lowPass => low
  | .bandPass => band
  | .highPass => high

theorem filterStep_of_biquad {c : BqCoeffs} (htopo : g.ctrl.topo = .biquad)
    (hc : n.bqCoeffs g.ctrl.filterType g.cutoff (fOfInt p.sampleRate) = c) :
    filterStep n p g v x =
      (let y := fSub (fSub (fAdd (fAdd (fMul c.a0 x) (fMul c.a1 v.x1)) (fMul c.a2 v.x2)) (fMul c.b1 v.y1))
        (fMul c.b2 v.y2)
      ({ v with x1 := x, x2 := v.x1, y1 := y, y2 := v.y1 }, y)) := by
  subst hc
  rw [filterStep, htopo]
  rfl

theorem filterStep_of_stateVariable {f1 q : Word} (htopo : g.ctrl.topo = .stateVariable)
    (hf1 : n.svfF g.cutoff (fOfInt p.sampleRate) = f1) (hq : n.svfQ g.resonance = q) :
    filterStep n p g v x =
      (let low := fAdd v.low (fMul f1 v.band)
      let high := fSub (fSub x low) (fMul q v.band)
      let band := fAdd v.band (fMul f1 high)
      ({ v with low := low, band := band }, svfAnswer g.ctrl.filterType low band high)) := by
  subst hf1 hq
  rw [filterStep, htopo]
  rfl

end

/-- Settles O57, one lemma for each topology. -/
theorem filterStepIsTheRecurrence : Obligations.FilterStepIsTheRecurrence :=
  fun _ _ _ _ _ => ⟨fun _ _ _ _ _ => filterStep_of_biquad, fun _ _ => filterStep_of_stateVariable⟩

section
variable {x z : Word} {neg : Bool}

/-- A finite value whose exponent and fraction are not all zeros is not a zero. -/
theorem floatValue_of_nonzero (hfin : fFinite x = true) (hx : x &&& 0x7FFFFFFF ≠ 0) :
    ∃ s m, m ≠ 0 ∧ floatValue x = .fin s m := by
  obtain ⟨s, m, hval⟩ := fFinite_iff.mp hfin
  refine ⟨s, m, ?_, hval⟩
  rintro rfl
  obtain ⟨bits, -, rfl, hmag⟩ := floatValue_fin hval
  rw [magnitude_eq_zero.mp hmag.symm] at hx
  cases s <;> exact absurd rfl hx

/-- A finite value is the rounding of its own units. -/
theorem roundWord_self {s : Bool} {m : Nat} (hx : floatValue x = .fin s m) : roundWord s m 1 = x := by
  obtain ⟨bits, hbits, rfl, rfl⟩ := floatValue_fin hx
  rw [roundWord, ← Nat.mul_one (magnitude bits), roundMagnitude_exact Nat.one_pos hbits]

/-- A sum of the units of a value that is not a zero is that value. -/
theorem addFinite_of_sum_eq {s t u : Bool} {m n k : Nat} (hx : floatValue x = .fin u k) (hk : k ≠ 0)
    (hsum : signedUnits s m + signedUnits t n = signedUnits u k) : addFinite s m t n = x := by
  have hsign : decide (signedUnits u k < 0) = u := by
    cases u <;> simp [signedUnits, Nat.pos_of_ne_zero hk]
  simp only [addFinite, hsum]
  rw [if_neg (by rw [← Int.natAbs_eq_zero, signedUnits_natAbs]; exact hk), hsign, signedUnits_natAbs, roundWord_self hx]

section
variable (hfin : fFinite x = true) (hx : x &&& 0x7FFFFFFF ≠ 0) (hz : floatValue z = .fin neg 0)
include hfin hx hz

theorem fAdd_zero_of_nonzero : fAdd x z = x := by
  obtain ⟨s, m, hm, hval⟩ := floatValue_of_nonzero hfin hx
  rw [fAdd_fin hval hz]
  exact addFinite_of_sum_eq hval hm (by rw [signedUnits_zero, add_zero])

theorem zero_fAdd_of_nonzero : fAdd z x = x := by
  obtain ⟨s, m, hm, hval⟩ := floatValue_of_nonzero hfin hx
  rw [fAdd_fin hz hval]
  exact addFinite_of_sum_eq hval hm (by rw [signedUnits_zero, zero_add])

theorem fSub_zero_of_nonzero : fSub x z = x := by
  obtain ⟨s, m, hm, hval⟩ := floatValue_of_nonzero hfin hx
  rw [fSub_fin hval hz]
  exact addFinite_of_sum_eq hval hm (by rw [signedUnits_zero, add_zero])

end

/-- `+0.0` plus a zero of either sign is `+0.0`. -/
theorem zero_fAdd_zero (hz : floatValue z = .fin neg 0) : fAdd 0#32 z = 0#32 := by
  rw [fAdd_fin floatValue_zero hz]
  exact addFinite_of_sum_zero (by rw [signedUnits_zero, signedUnits_zero, add_zero])

end

section
variable {n : Numerics} {p : Params} {g : Settings} {v : Voice}

/-- The products with the elements at rest are zeros, and each leaves `a0` as it is. -/
theorem filterStep_biquad_rest {c : BqCoeffs} (hx1 : v.x1 = 0) (hx2 : v.x2 = 0) (hy1 : v.y1 = 0) (hy2 : v.y2 = 0)
    (hc : n.bqCoeffs g.ctrl.filterType g.cutoff (fOfInt p.sampleRate) = c) (ha0 : fFinite c.a0 = true)
    (ha0nz : c.a0 &&& 0x7FFFFFFF ≠ 0) (ha1 : fFinite c.a1 = true) (ha2 : fFinite c.a2 = true)
    (hb1 : fFinite c.b1 = true) (hb2 : fFinite c.b2 = true) (htopo : g.ctrl.topo = .biquad) :
    filterStep n p g v 0x3F800000 = ({ v with x1 := 0x3F800000, y1 := c.a0 }, c.a0) := by
  obtain ⟨_, ha1⟩ := fMul_zero_of_finite ha1
  obtain ⟨_, ha2⟩ := fMul_zero_of_finite ha2
  obtain ⟨_, hb1⟩ := fMul_zero_of_finite hb1
  obtain ⟨_, hb2⟩ := fMul_zero_of_finite hb2
  have hy : fSub (fSub (fAdd (fAdd (fMul c.a0 0x3F800000#32) (fMul c.a1 0#32)) (fMul c.a2 0#32)) (fMul c.b1 0#32))
      (fMul c.b2 0#32) = c.a0 := by
    rw [fMul_one_of_finite ha0, fAdd_zero_of_nonzero ha0 ha0nz ha1, fAdd_zero_of_nonzero ha0 ha0nz ha2,
      fSub_zero_of_nonzero ha0 ha0nz hb1, fSub_zero_of_nonzero ha0 ha0nz hb2]
  rw [filterStep_of_biquad htopo hc, hx1, hx2, hy1, hy2]
  simp only [BitVec.ofNat_eq_ofNat, hy]

/-- The products with the integrators at rest are zeros: low stays +0.0, high is 1.0, and band takes `f1`. -/
theorem filterStep_stateVariable_rest {f1 q : Word} (hlow : v.low = 0) (hband : v.band = 0)
    (hf1 : n.svfF g.cutoff (fOfInt p.sampleRate) = f1) (hq : n.svfQ g.resonance = q) (hf1fin : fFinite f1 = true)
    (hf1nz : f1 &&& 0x7FFFFFFF ≠ 0) (hqfin : fFinite q = true) (htopo : g.ctrl.topo = .stateVariable) :
    filterStep n p g v 0x3F800000 =
      ({ v with low := 0, band := f1 }, svfAnswer g.ctrl.filterType 0 f1 0x3F800000) := by
  obtain ⟨_, hf1zero⟩ := fMul_zero_of_finite hf1fin
  obtain ⟨_, hqzero⟩ := fMul_zero_of_finite hqfin
  have hlow' : fAdd 0#32 (fMul f1 0#32) = 0#32 := zero_fAdd_zero hf1zero
  have hhigh : fSub (fSub 0x3F800000#32 0#32) (fMul q 0#32) = 0x3F800000#32 := by
    rw [fSub_zero_of_nonzero (by decide) (by decide) floatValue_zero,
      fSub_zero_of_nonzero (by decide) (by decide) hqzero]
  have hband' : fAdd 0#32 (fMul f1 0x3F800000#32) = f1 := by
    rw [fMul_one_of_finite hf1fin, zero_fAdd_of_nonzero hf1fin hf1nz floatValue_zero]
  rw [filterStep_of_stateVariable htopo hf1 hq, hlow, hband]
  simp only [BitVec.ofNat_eq_ofNat, hlow', hhigh, hband']

end

/-- Settles O48, one lemma for each topology. -/
theorem filterFirstStepFromRest : Obligations.FilterFirstStepFromRest :=
  fun _ _ _ _ hx1 hx2 hy1 hy2 hlow hband =>
    ⟨fun _ => filterStep_biquad_rest hx1 hx2 hy1 hy2, fun _ _ => filterStep_stateVariable_rest hlow hband⟩

end Sys2Proof.Machine
end

section
/-! The configuration access family (44_config_access.md R78 to R81): what a CFG_WR does on each of its grounds, the
codes of `CTRL`, and what a CFG_RD answers. -/

namespace Sys2Proof.Machine

/-! Writes, ground by ground. -/

theorem regAt_status : regAt 0x10 = .status := rfl

/-- No configuration register and no `STATUS` stands at a read-only address (10_state.md R20). -/
theorem regAt_of_readOnly {a : BitVec 8}
    (ha : (0x11 ≤ a.toNat ∧ a.toNat ≤ 0x16) ∨ (0x40 ≤ a.toNat ∧ a.toNat ≤ 0xBF)) :
    (∀ r, regAt a ≠ .cfg r) ∧ regAt a ≠ .status := by
  constructor
  · intro r hr
    rw [eq_cfgAddress_of_regAt hr] at ha
    cases r <;> simp [cfgAddress] at ha
  · intro hr
    rw [eq_status_of_regAt hr] at ha
    simp at ha

theorem clearFlags_eq_ite (data : Word) (s : State) :
    s.clearFlags data = { s with
      errProto := if data.getLsbD 1 then false else s.errProto
      errCfg := if data.getLsbD 2 then false else s.errCfg
      errNumeric := if data.getLsbD 3 then false else s.errNumeric } := by
  have and_not_eq_ite (flag bit : Bool) : (flag && !bit) = if bit then false else flag := by cases bit <;> simp
  simp only [State.clearFlags, and_not_eq_ite]

section

variable {s : State} {a : BitVec 8} {data : Word} {r : CfgReg} (hm : s.mode = .run)
include hm

theorem exec_cfgWr_legal (hl : legalValue s.params r data = true) :
    exec (.cfgWr (cfgAddress r) data) s = .next { s with cfg := s.cfg.write r data } :=
  execCfgWr_eq_next.mpr ⟨hm, .inl ⟨r, regAt_cfgAddress r, hl, rfl⟩⟩

theorem exec_cfgWr_illegal (hl : legalValue s.params r data = false) :
    exec (.cfgWr (cfgAddress r) data) s = .next (afterCfgRefused s) :=
  execCfgWr_eq_next.mpr ⟨hm, .inr (.inr ⟨.inl ⟨r, regAt_cfgAddress r, hl⟩, writeRefused_eq s⟩)⟩

theorem exec_cfgWr_readOnly (ha : (∀ r, regAt a ≠ .cfg r) ∧ regAt a ≠ .status) :
    exec (.cfgWr a data) s = .next (afterCfgRefused s) :=
  execCfgWr_eq_next.mpr ⟨hm, .inr (.inr ⟨.inr (.inr ha), writeRefused_eq s⟩)⟩

theorem exec_cfgWr_status_refused (hd : data &&& 0xFFFFFFF1 ≠ 0) :
    exec (.cfgWr 0x10 data) s = .next (afterCfgRefused s) :=
  execCfgWr_eq_next.mpr
    ⟨hm, .inr (.inr ⟨.inr (.inl ⟨regAt_status, (statusWriteRefused_iff data).mpr hd⟩), writeRefused_eq s⟩)⟩

theorem exec_cfgWr_status_legal (hd : ¬ data &&& 0xFFFFFFF1 ≠ 0) :
    exec (.cfgWr 0x10 data) s = .next (s.clearFlags data) :=
  have hlegal : statusWriteRefused data = false :=
    Bool.eq_false_iff.mpr fun h => hd ((statusWriteRefused_iff data).mp h)
  execCfgWr_eq_next.mpr ⟨hm, .inr (.inl ⟨regAt_status, hlegal, rfl⟩)⟩

end

/-- Settles O19, one lemma for each kind of ground. -/
theorem refusedWritesFollowThePolicy : Obligations.RefusedWritesFollowThePolicy := by
  rintro s a data hm (hlow | hvoice | ⟨r, rfl, hl⟩ | ⟨rfl, hd⟩)
  · exact exec_cfgWr_readOnly hm (regAt_of_readOnly (.inl hlow))
  · exact exec_cfgWr_readOnly hm (regAt_of_readOnly (.inr hvoice))
  · exact exec_cfgWr_illegal hm hl
  · exact exec_cfgWr_status_refused hm hd

/-- Settles O21: `DATA` decides between a refusal and a clearing of flags. -/
theorem statusWriteClearsFlags : Obligations.StatusWriteClearsFlags := by
  intro s data hm
  split
  next hd => exact exec_cfgWr_status_refused hm hd
  next hd => rw [exec_cfgWr_status_legal hm hd, clearFlags_eq_ite]

/-! Reads. -/

theorem exec_cfgRd_of_readReg {s : State} {a : BitVec 8} {w : Word} (hw : s.readReg (regAt a) = some w) :
    exec (.cfgRd a) s = .next { s with observed := s.observed ++ [.word w] } :=
  execCfgRd_eq_next.mpr (.inl ⟨w, hw, rfl⟩)

/-- What the host has observed stands in no register (log 3). -/
theorem readReg_emit (o : Output) (s : State) (n : RegName) : (s.emit o).readReg n = s.readReg n := by
  cases n <;> rfl

/-- Settles O22: an answer changes no register, so that the second read finds the same word. -/
theorem configReadHasNoEffect : Obligations.ConfigReadHasNoEffect := by
  intro s a w _ hw
  have hagain : (s.emit (.word w)).readReg (regAt a) = some w := (readReg_emit _ s _).trans hw
  exact ⟨exec_cfgRd_of_readReg hw, exec_cfgRd_of_readReg hagain⟩

/-! The codes of `CTRL` (10_state.md R19). -/

theorem ctrlWord_fields (c : Ctrl) :
    (ctrlWord c).extractLsb' 0 2 = waveformCode c.waveform ∧ (ctrlWord c).extractLsb' 2 1 = topoCode c.topo ∧
      (ctrlWord c).extractLsb' 3 2 = filterTypeCode c.filterType :=
  ⟨extractLsb'_low, extractLsb'_above (by decide) extractLsb'_low,
    extractLsb'_above (by decide) (extractLsb'_above (by decide) extractLsb'_low)⟩

/-- A legal write of `CTRL` leaves the selections whose word is `DATA` (44_config_access.md R78). -/
theorem write_ctrl_of_legal {p : Params} {data : Word} (hl : legalValue p .ctrl data = true) (cfg : ConfigRegs) :
    ∃ c, (cfg.write .ctrl data).ctrl = some c ∧ ctrlWord c = data := by
  obtain ⟨c, hc⟩ := Option.isSome_iff_exists.mp hl
  exact ⟨c, hc, ctrlWord_of_ctrlOf hc⟩

/-- Settles O18: the register write of the model is the configuration asked for. -/
theorem configWriteReadsBack : Obligations.ConfigWriteReadsBack := by
  intro s r data hm hl
  have hself : (s.cfg.write r data).read r = some data := read_write_self hl
  refine ⟨s.cfg.write r data, exec_cfgWr_legal hm hl, hself, fun r' hr' => read_write_other hr', ?_, ?_⟩
  · rintro rfl
    obtain ⟨c, hc, rfl⟩ := write_ctrl_of_legal hl s.cfg
    obtain ⟨hwave, htopo, htype⟩ := ctrlWord_fields c
    refine ⟨c, hc, hwave.trans ?_, htopo.trans ?_, htype.trans ?_⟩
    · cases c.waveform <;> rfl
    · cases c.topo <;> rfl
    · cases c.filterType <;> rfl
  · apply exec_cfgRd_of_readReg
    rw [regAt_cfgAddress]
    exact hself

end Sys2Proof.Machine
end

section
/-! The exception family (60_exceptions.md R83 to R90): what a fault leaves and where it comes from, the protocol errors
and the UNSET checks that raise one, and what an engine in FAULTED still does. -/

namespace Sys2Proof.Machine

/-! The sources of a fault (R83 to R88). -/

/-- An operation that takes the engine from RUN to FAULTED raised one of its causes, and does nothing else. -/
theorem exec_takesFault {i : Instr} {s t : State} (hs : s.mode = .run) (h : exec i s = .next t)
    (ht : t.mode = .faulted) : ∃ c, t = s.takeFault c ∧ mayRaise i s c := by
  cases exec_next h with
  | fault c hm heq hc => exact ⟨c, heq, hc⟩
  | protoLogged hm heq | writeLogged hm heq | readLogged hm heq | same hm heq | vol hm x heq | pan hm x heq
  | program hm x heq | bend hm x heq | noteOn hm g hg note vel pk v hp hv heq
  | noteOff hm g hg note pk v k hp hb hv heq | pulled hm g hg vs acc hr l r hl hf heq
  | silenced hm g hg vs acc hr hst heq | wrote hm r d a ha hl heq | cleared hm d a ha heq | read w heq
  | reset heq => simp [heq, hs] at ht

/-- The whole state after a fault: a cause without a flag leaves all three flags (R89). -/
theorem takeFault_eq (c : Cause) (s : State) :
    s.takeFault c = { s with
      mode := .faulted
      faultCause := causeCode c
      errProto := s.errProto || c == .proto
      errCfg := s.errCfg || c == .cfg
      errNumeric := s.errNumeric || c == .numeric } := by
  cases c <;> simp [State.takeFault, State.flagged]

/-- Settles O10: the state after a fault is `takeFault` of the state before it. -/
theorem faultsArePrecise : Obligations.FaultsArePrecise := by
  intro i s t hs h ht
  obtain ⟨c, rfl, -⟩ := exec_takesFault hs h ht
  exact ⟨c, takeFault_eq c s⟩

/-- Settles O11: each cause with the operations that may raise it. -/
theorem faultCauseNamesItsSource : Obligations.FaultCauseNamesItsSource := by
  intro i s t hs h ht
  obtain ⟨c, rfl, hc⟩ := exec_takesFault hs h ht
  cases c with
  | proto =>
    obtain ⟨hstrict, hsource⟩ := hc
    exact .inl ⟨rfl, by simp, hstrict, hsource⟩
  | cfg =>
    obtain ⟨hstrict, hsource⟩ := hc
    exact .inr (.inl ⟨rfl, by simp, hstrict, hsource⟩)
  | numeric =>
    obtain ⟨hstrict, hpull, hsource⟩ := hc
    exact .inr (.inr (.inl ⟨rfl, by simp, hstrict, hpull, hsource⟩))
  | cfgUnset => exact .inr (.inr (.inr (.inl ⟨rfl, hc⟩)))
  | envParam => exact .inr (.inr (.inr (.inr ⟨rfl, hc⟩)))

/-- Settles O14: causes 1 to 3 are raised in strict mode alone. -/
theorem hardenedFaultsOnlyOnConfiguration : Obligations.HardenedFaultsOnlyOnConfiguration := by
  intro i s t hs hhardened h ht
  obtain ⟨c, rfl, hc⟩ := exec_takesFault hs h ht
  cases c with
  | proto | cfg | numeric => simp [mayRaise, hhardened] at hc
  | cfgUnset => exact .inl rfl
  | envParam => exact .inr rfl

/-! Protocol errors (R84). -/

theorem takeFault_proto_eq (s : State) :
    s.takeFault .proto = { s with errProto := true, mode := .faulted, faultCause := 1 } := rfl

theorem flagged_proto_eq (s : State) : s.flagged .proto = { s with errProto := true } := rfl

theorem protoError_eq (s : State) : protoError s = .next (afterProtoError s) := by
  rw [protoError_eq_next, takeFault_proto_eq, flagged_proto_eq, afterProtoError]
  cases s.params.strict <;> simp

theorem illegalOp_of_run {s : State} (hm : s.mode = .run) : illegalOp s = .next (afterProtoError s) :=
  (whenRunning_run hm).trans (protoError_eq s)

theorem otherController_of_unlisted {s : State} {cc : BitVec 7} (hm : s.mode = .run)
    (hcc : cc ∉ s.params.ignoredCc) : otherController cc s = .next (afterProtoError s) :=
  otherController_eq_next.mpr (.inr ⟨by simpa using hcc, illegalOp_of_run hm⟩)

section

variable {s : State} {g : Settings} {note : BitVec 7} (h : s.ready g) (hp : pianoKey note = none)
include h hp

theorem noteOn_of_offPiano (n : Numerics) (vel : BitVec 7) : noteOn n note vel s = .next (afterProtoError s) :=
  noteOn_eq_next.mpr ⟨h.1, .inr ⟨g, h.2, .inl ⟨hp, protoError_eq s⟩⟩⟩

theorem noteOff_of_offPiano (n : Numerics) : noteOff n note s = .next (afterProtoError s) :=
  noteOff_eq_next.mpr ⟨h.1, .inr ⟨g, h.2, .inl ⟨hp, protoError_eq s⟩⟩⟩

theorem execPolyPressure_of_offPiano : execPolyPressure note s = .next (afterProtoError s) :=
  execPolyPressure_eq_next.mpr ⟨h.1, .inr ⟨g, h.2, .inl ⟨hp, protoError_eq s⟩⟩⟩

end

/-- Settles O8, one lemma for each caller of `ProtoError`. -/
theorem protocolErrorsFollowThePolicy : Obligations.ProtocolErrorsFollowThePolicy := by
  constructor
  · intro s w op3 op ch b c d e hm
    have illegal : illegalOp s = .next (afterProtoError s) := illegalOp_of_run hm
    exact ⟨illegal, illegal, illegal, illegal, illegal, illegal, otherController_of_unlisted hm⟩
  · intro s g ch d e h hd
    have hp : pianoKey d = none := pianoKey_none hd
    exact ⟨noteOn_of_offPiano h hp _ e, noteOff_of_offPiano h hp _, noteOff_of_offPiano h hp _,
      execPolyPressure_of_offPiano h hp⟩

/-! The UNSET checks (R87). -/

theorem takeFault_cfgUnset_eq (s : State) :
    s.takeFault .cfgUnset = { s with mode := .faulted, faultCause := 4 } := rfl

theorem otherController_of_unset {s : State} {cc : BitVec 7} (hm : s.mode = .run) (hg : s.cfg.settings = none)
    (hcc : cc ∈ s.params.ignoredCc) : otherController cc s = .next (s.takeFault .cfgUnset) :=
  otherController_eq_next.mpr (.inl ⟨List.contains_iff_mem.mpr hcc, configuredOp_unset hm hg⟩)

theorem exec_cfgRd_of_unset {s : State} {r : CfgReg} (hm : s.mode = .run) (hr : s.cfg.read r = none) :
    exec (.cfgRd (cfgAddress r)) s = .next (s.takeFault .cfgUnset) := by
  refine execCfgRd_eq_next.mpr (.inr ?_)
  rw [regAt_cfgAddress]
  exact ⟨hr, hm, .inr ⟨nofun, rfl⟩⟩

/-- Settles O9: nine operations stop at the gate of R45, seven once the allow-list admits them, and CFG_RD at the
register itself. -/
theorem unsetConfigurationFaults : Obligations.UnsetConfigurationFaults := by
  intro s r ch d e b hm hr
  have hg : s.cfg.settings = none := settings_eq_none hr
  have gate (k : Settings → Result) : configuredOp s k = .next (s.takeFault .cfgUnset) := configuredOp_unset hm hg
  rw [← takeFault_cfgUnset_eq]
  refine ⟨gate _, gate _, gate _, gate _, gate _, gate _, gate _, gate _, gate _, fun hlist => ?_,
    exec_cfgRd_of_unset hm hr⟩
  have ignored {cc : BitVec 7} (hcc : cc ∈ Config.defaultIgnoredCc) :
      otherController cc s = .next (s.takeFault .cfgUnset) := otherController_of_unset hm hg (hlist cc hcc)
  exact ⟨ignored (by decide), ignored (by decide), ignored (by decide), ignored (by decide), ignored (by decide),
    ignored (by decide), ignored (by decide)⟩

/-! An engine in FAULTED (R90). -/

section

variable {s : State} (hm : s.mode = .faulted)
include hm

theorem otherController_faulted (cc : BitVec 7) : otherController cc s = .fault .heldInFaulted := by
  unfold otherController
  split
  · exact configuredOp_faulted hm
  · exact whenRunning_faulted hm

/-- Every operation but the two of R90 passes a check for FAULTED first. -/
theorem exec_held {i : Instr} (hreset : i ≠ .reset) (hread : ∀ a, i ≠ .cfgRd a) :
    exec i s = .fault .heldInFaulted := by
  cases i with
  | illegalOpword | illegalNoStatus | illegalChannelPressure | illegalSystem | illegalData1 | illegalData2
  | cfgWr => exact whenRunning_faulted hm
  | ccIgnored1 | ccIgnored64 | ccIgnored91 | ccIgnored92 | ccIgnored93 | ccIgnored94 | ccIgnored95
  | ccUnhandled => exact otherController_faulted hm _
  | noteOn | noteOff | noteOnVel0 | polyPressure | ccVolume | ccPan | programChange | pitchBend
  | pull => exact configuredOp_faulted hm
  | cfgRd a => exact absurd rfl (hread a)
  | reset => exact absurd rfl hreset

theorem exec_cfgRd_held {a : BitVec 8} (hr : s.readReg (regAt a) = none) :
    exec (.cfgRd a) s = .fault (if regAt a = .reserved then .reservedReadInFaulted else .unsetReadInFaulted) := by
  simp only [exec, execCfgRd, hr, hm]

theorem exec_staysFaulted {i : Instr} {t : State} (h : exec i s = .next t) (hi : i ≠ .reset) : t.mode = .faulted := by
  rcases exec_mode h hi with ⟨hmode, -⟩ | ⟨hrun, -⟩
  · exact hmode.trans hm
  · cases hm.symm.trans hrun

end

/-- Settles O12: what is held, the two operations of R90, and that the mode stays. -/
theorem faultedHoldsEveryOperation : Obligations.FaultedHoldsEveryOperation := by
  intro i s hm
  refine ⟨exec_held hm, fun _ _ => exec_cfgRd_of_readReg, fun _ hr => ⟨_, exec_cfgRd_held hm hr⟩,
    ⟨s.reconstructed, rfl, State.reconstructed_mode s, State.reconstructed_faultCause s⟩, fun t h => ?_⟩
  by_cases hi : i = .reset
  · exact .inr hi
  · exact .inl (exec_staysFaulted hm h hi)

/-! Runs in FAULTED (R90, 70_reset_and_hazards.md R103). -/

/-- What every step keeps holds of every state a run reaches. -/
theorem run_keeps {M : Host.Core} {P : M.State → Prop} (hstep : ∀ s t, P s → M.step s = .next t → P t) :
    ∀ (k : Nat) (s t : M.State), P s → M.run k s = .next t → P t := by
  intro k
  induction k with
  | zero =>
    intro s t hs h
    cases h
    exact hs
  | succ k ih =>
    intro s t hs h
    rw [Host.Core.run] at h
    split at h
    next s' hs' => exact ih s' t (hstep s s' hs hs') h
    next => cases h
    next => cases h

/-- The engine is in FAULTED and the host presents no RESET. -/
def State.faultedWithoutReset (s : State) : Prop := s.mode = .faulted ∧ ∀ w ∈ s.arriving, decode w ≠ .reset

/-- With no word presented the engine makes no progress (log 2). -/
theorem step_of_nothing_arriving {s : State} (h : s.arriving = []) : step s = .next s := by
  simp only [step, State.takeOperation, h]

theorem step_faultedWithoutReset {s t : State} (hs : s.faultedWithoutReset) (h : step s = .next t) :
    t.faultedWithoutReset := by
  obtain ⟨hm, hwords⟩ := hs
  cases harr : s.arriving with
  | nil =>
    rw [step_of_nothing_arriving harr, next_inj] at h
    exact h ▸ ⟨hm, hwords⟩
  | cons w rest =>
    rw [step_of_arriving harr] at h
    rw [harr, List.forall_mem_cons] at hwords
    obtain ⟨hw, hrest⟩ := hwords
    obtain ⟨-, harriving, -⟩ := exec_ownersAloneWrite h hw
    refine ⟨exec_staysFaulted (s := { s with arriving := rest }) hm h hw, ?_⟩
    rw [harriving]
    exact hrest

/-- Settles O13, by induction on the length of the run. -/
theorem faultedRunNeedsReset : Obligations.FaultedRunNeedsReset := by
  intro k s t hm hwords h
  obtain ⟨hfaulted, -⟩ := run_keeps (M := Sys2Proof.core) (fun _ _ => step_faultedWithoutReset) k s t ⟨hm, hwords⟩ h
  exact hfaulted

end Sys2Proof.Machine
end

section
/-! The reset family (70_reset_and_hazards.md R97 to R99): the construction state that RESET answers, and the boot
writes that make it ready. -/

namespace Sys2Proof.Machine

/-! RESET (R97, R98). -/

theorem exec_reset (s : State) : exec .reset s = .next s.reconstructed := rfl

/-- `STATUS` of the construction state: RUN, no cause, no flag (10_state.md R20). -/
theorem statusWord_reconstructed (s : State) : statusWord s.reconstructed = 0 := by
  simp only [statusWord, State.reconstructed_mode, State.reconstructed_faultCause, State.reconstructed_errProto,
    State.reconstructed_errCfg, State.reconstructed_errNumeric]
  decide

theorem readReg_status_reconstructed (s : State) : s.reconstructed.readReg (regAt 0x10) = some 0 :=
  congrArg some (statusWord_reconstructed s)

/-- Settles O16: the state written out is the model's `reconstructed`, of whichever state RESET meets. -/
theorem resetRestoresConstruction : Obligations.ResetRestoresConstruction :=
  ⟨decode_of_encode rfl rfl, decode_of_encode rfl rfl, fun s =>
    ⟨s.reconstructed, exec_reset s, rfl, exec_cfgRd_of_readReg (readReg_status_reconstructed s)⟩⟩

/-- Settles O17: the start state is a construction state, which RESET gives back; each address read is that of a
register whose construction value is listed. -/
theorem startStateReadsAsListed : Obligations.StartStateReadsAsListed := by
  have hvoice (i : Slot) : State.reset.voice i = Voice.silent := State.voice_reconstructed State.reset i
  exact ⟨exec_reset State.reset, readReg_status_reconstructed State.reset, rfl, rfl, rfl,
    congrArg (some ∘ voiceStatWord) (hvoice 31), congrArg (some ∘ Voice.level) (hvoice 0),
    congrArg (some ∘ Voice.phase) (hvoice 31), rfl⟩

/-! The boot writes (R99). -/

/-- The registers that hold a whole configuration. -/
def Settings.regs (g : Settings) : ConfigRegs :=
  { ctrl := g.ctrl, peak := g.peak, sustain := g.sustain, attackT := g.attackT, decayT := g.decayT,
    releaseT := g.releaseT, cutoff := g.cutoff, resonance := g.resonance, volUp := g.volUp, volDown := g.volDown,
    panUp := g.panUp, panDown := g.panDown }

/-- Operations run with exactly what the registers hold (40_channel_commands.md R45). -/
theorem settings_eq_some_iff {c : ConfigRegs} {g : Settings} : c.settings = some g ↔ c = g.regs := by
  constructor
  · intro h
    cases c
    simp only [ConfigRegs.settings, Option.bind_eq_bind, Option.bind_eq_some_iff, Option.some.injEq] at h
    obtain ⟨_, rfl, _, rfl, _, rfl, _, rfl, _, rfl, _, rfl, _, rfl, _, rfl, _, rfl, _, rfl, _, rfl, _, rfl,
      rfl⟩ := h
    rfl
  · rintro rfl
    rfl

/-- With no register `UNSET` there is a configuration, the registers' own. -/
theorem exists_eq_regs {c : ConfigRegs} (h : ∀ r, c.read r ≠ none) : ∃ g : Settings, c = g.regs := by
  cases hg : c.settings with
  | none =>
    obtain ⟨r, hr⟩ := exists_unset hg
    exact absurd hr (h r)
  | some g => exact ⟨g, settings_eq_some_iff.mp hg⟩

/-- The registers after a list of writes, first write first. -/
def ConfigRegs.writeAll (c : ConfigRegs) (writes : List (CfgReg × Word)) : ConfigRegs :=
  writes.foldl (fun c rd => c.write rd.1 rd.2) c

/-- Legal writes are all carried out, and nothing but the registers changes (44_config_access.md R78). -/
theorem afterWrites_of_legal {writes : List (CfgReg × Word)} {s : State} (hm : s.mode = .run)
    (hl : ∀ rd ∈ writes, legalValue s.params rd.1 rd.2 = true) :
    afterWrites writes s = some { s with cfg := s.cfg.writeAll writes } := by
  induction writes generalizing s with
  | nil => rfl
  | cons rd rest ih =>
    obtain ⟨hfirst, hrest⟩ := List.forall_mem_cons.mp hl
    have hwrite : execCfgWr (cfgAddress rd.1) rd.2 s = .next { s with cfg := s.cfg.write rd.1 rd.2 } :=
      exec_cfgWr_legal hm hfirst
    rw [afterWrites, hwrite]
    exact ih (s := { s with cfg := s.cfg.write rd.1 rd.2 }) hm hrest

/-- A legal write leaves no register `UNSET` that held a value, and never its own. -/
theorem read_write_ne_none {p : Params} {c : ConfigRegs} {r r' : CfgReg} {d : Word} (hl : legalValue p r d = true)
    (h : r' = r ∨ c.read r' ≠ none) : (c.write r d).read r' ≠ none := by
  by_cases hr : r' = r
  · subst hr
    simp [read_write_self hl]
  · rw [read_write_other hr]
    exact h.resolve_left hr

/-- Once written, a register stays other than `UNSET`, whatever the writes before and after. -/
theorem read_writeAll_ne_none {p : Params} {writes : List (CfgReg × Word)} {c : ConfigRegs} {r : CfgReg}
    (hl : ∀ rd ∈ writes, legalValue p rd.1 rd.2 = true) (h : (∃ d, (r, d) ∈ writes) ∨ c.read r ≠ none) :
    (c.writeAll writes).read r ≠ none := by
  induction writes generalizing c with
  | nil =>
    rcases h with ⟨d, hd⟩ | h
    · cases hd
    · exact h
  | cons rd rest ih =>
    obtain ⟨hfirst, hrest⟩ := List.forall_mem_cons.mp hl
    apply ih hrest
    rcases h with ⟨d, hd⟩ | h
    · rcases List.mem_cons.mp hd with rfl | hd
      · exact .inr (read_write_ne_none hfirst (.inl rfl))
      · exact .inl ⟨d, hd⟩
    · exact .inr (read_write_ne_none hfirst (.inr h))

/-- Settles O25: the writes leave no register `UNSET`, and then the registers are those of one configuration. -/
theorem bootWritesMakeReady : Obligations.BootWritesMakeReady := by
  intro s writes hm hl hall
  obtain ⟨g, hg⟩ := exists_eq_regs fun r => read_writeAll_ne_none (c := s.cfg) hl (.inl (hall r))
  have hready : State.ready { s with cfg := g.regs } g := ⟨hm, settings_eq_some_iff.mpr rfl⟩
  refine ⟨{ s with cfg := g.regs }, g, ?_, hready, rfl, rfl, rfl, rfl, rfl, rfl, rfl, rfl, rfl, rfl, rfl, rfl⟩
  rw [afterWrites_of_legal hm hl, hg]

end Sys2Proof.Machine
end
